-- ==== Sys2Proof/Word.lean ====
section
/-!
DEFINITION. The word types of CRC16FP (spec/00_scope.md R3, R5): bit vectors with bit 0 least significant.
-/

namespace Sys2Proof

/-- A frame byte or tx byte, 8 bits (R3). -/
abbrev Byte := BitVec 8

/-- A sample pattern, the CRC accumulator, `rdata`: 16 bits (R3). -/
abbrev Half := BitVec 16

/-- A command word, 32 bits (R3, R50). -/
abbrev Word := BitVec 32

end Sys2Proof
end

