-- ==== Sys2Proof/Config.lean ====
section
/-!
DEFINITION. What the spec fixes once for the hardware (spec/00_scope.md R1 to R3) and the one value it leaves free.
-/

namespace Sys2Proof

/-- The reflected polynomial constant (R1). -/
def Config.polynomial : Half := 0xA001#16

/-- The initial value of the accumulator (R1). -/
def Config.crcInitial : Half := 0xFFFF#16

/-- The byte `tx_data` drives while no byte is offered (spec/20_memory.md R33). -/
def Config.idleTxData : Byte := 0x00#8

/-- The index of the last byte of a frame (R2: a frame is exactly 10 bytes, 0 to 9). -/
def Config.lastFrameIndex : BitVec 4 := 9#4

/-- FREE VALUE (log entry 5): the named parameter `sink_ready` of R4 in the cycle numbered `n`, used only for a cycle
that the schedule held in the state does not list. It has no body, so nothing can be proved of its value. -/
opaque Config.sinkReady : Nat → Bool

end Sys2Proof
end

