-- ==== Sys2Proof/Syntax.lean ====
section
/-!
DEFINITION. The seven commands (spec/30_encoding.md R54), the decoder's verdicts (R55), the error causes
(spec/60_exceptions.md R100) and the assembler's forms (R58).
-/

namespace Sys2Proof

/-- A command, one constructor per row of spec/opcode_table.json. The operands have exactly the widths of their fields
(R50 to R53), so every term is a command that some word spells. -/
inductive Instr where
  | nop
  | crcInit
  /-- `b = cmd[7:0]`, an unsigned byte (R53). -/
  | crcFeed (b : Byte)
  | crcRead
  /-- `i = cmd[17:16]`, the sample index; `v = cmd[15:0]`, the pattern of a signed sample (R52, R53). -/
  | loadSample (i : BitVec 2) (v : Half)
  | pack
  | statusRead
deriving DecidableEq, Repr

/-- The cause of an IllegalCommand (R100; code 0, NONE, is raised by nothing). -/
inductive Cause where
  | illegalOpcode
  | reservedField
  | packIncomplete
deriving DecidableEq, Repr

/-- What the decoder answers for a word: a command, or an illegal verdict with its cause (R55). -/
inductive Decoded where
  | command (i : Instr)
  | illegal (c : Cause)
deriving DecidableEq, Repr

/-- A row of the opcode map (R54): a word `w` spells the command when `(w & mask) == match`. -/
structure OpcodeRow where
  mnemonic : String
  pattern : Word
  mask : Word
deriving DecidableEq, Repr

/-- A line of the assembler's syntax (R58), its operands as the integers that are written. -/
inductive AsmLine where
  | nop
  | crcInit
  | crcFeed (b : Int)
  | crcRead
  | loadSample (i v : Int)
  | pack
  | statusRead
  /-- `.word w`: any 32-bit value, for reserved or malformed words. -/
  | word (w : Int)
  /-- The pseudo-command `CRC_BUF b0, …, b(n-1)`. -/
  | crcBuf (bytes : List Int)
  /-- The pseudo-command `OUTPUT v0, v1, v2, v3`. -/
  | output (v0 v1 v2 v3 : Int)
deriving DecidableEq, Repr

end Sys2Proof
end

