-- ==== Sys2Proof/Machine/State.lean ====
section
/-!
DEFINITION. The state of CRC16FP as plain data (spec/10_state.md), the reasons a step can stop, and the state after
reset (spec/70_reset_and_hazards.md R120).
-/

namespace Sys2Proof.Machine

/-- The frame buffer `frm[0..9]` (R13), the block's only memory: (byte index, byte) pairs, indices strictly rising. -/
abbrev Memory := List Host.Cell

/-- Everything the spec gives the block, then the environment's inputs and the observation, which the spec calls no state
of the block (R20) and which stand here because a step takes a state only (log entries 3, 4, 5 and 12). -/
structure State where
  /-- `crc_acc` (R10). -/
  crcAcc : Half
  /-- `smp[0..3]` (R11). -/
  smp : Vector Half 4
  /-- `sv[3:0]` (R12). -/
  sv : BitVec 4
  /-- `frm[0..9]` (R13). -/
  frm : Memory
  /-- `busy` (R14). -/
  busy : Bool
  /-- `tx_idx` (R15). -/
  txIdx : BitVec 4
  /-- `err` (R16). -/
  err : Bool
  /-- `err_cause[1:0]` (R17). -/
  errCause : BitVec 2
  /-- `rdata[15:0]` (R18). -/
  rdata : Half
  /-- Whether a reset edge has come since power-on (R120); while it is false every element above holds no value. -/
  resetDone : Bool
  /-- MODEL: what the issuer presents from now on, the head now: a word, or none for a cycle (R4, R39; log entry 3). -/
  cmdIn : List (Option Word)
  /-- MODEL: `tx_ready` in the coming cycles, the head now (R4; log entry 5). -/
  txReadyIn : List Bool
  /-- MODEL: `rst` in the coming cycles, the head now (R4; log entry 4). -/
  rstIn : List Bool
  /-- MODEL: the number of this cycle, at which the free value `Config.sinkReady` is read (log entry 5). -/
  cycle : Nat
  /-- MODEL: the bytes the sink has received, oldest first (R20, R126; log entry 12). -/
  txOut : List Byte
  /-- MODEL: the values `rdata` took after each CRC_READ and STATUS_READ, oldest first (R126; log entry 12). -/
  rdataOut : List Half
  /-- MODEL: a reset has been asserted since the run began (R126 item 3; log entry 12). -/
  resetSeen : Bool
deriving DecidableEq, Repr

/-- Why the machine stops. -/
inductive Fault where
  /-- Raised by a cycle without reset, and by a look at the outputs, before the first reset edge (R120: "a model must fault
  on any observation before the first reset"). Safe. -/
  | observedBeforeReset
  /-- Raised by a tx transfer with `tx_idx` in 10..15: there is no such frame byte (R13, R15). No reachable state raises
  it. Safe. -/
  | noSuchFrameByte
  /-- Raised by a tx transfer of a frame byte that holds no value (R13). No reachable state raises it. Safe. -/
  | unwrittenFrameByte
deriving DecidableEq, Repr

/-- Why a step is refused. -/
inductive Refusal where
  /-- An instruction without a meaning, by its mnemonic. No arm answers it: every command has its meaning. Safe. -/
  | notModelled (mnemonic : String)
deriving DecidableEq, Repr

/-- The outcome of a step of this machine. -/
abbrev Result := Host.Outcome State Fault Refusal

/-- The state right after reset (R120), with no input placed. The sample registers, which the spec leaves unspecified,
hold 0 (log entry 1); no byte of the frame buffer holds a value (log entry 2). -/
def State.reset : State where
  crcAcc := 0xFFFF#16
  smp := Vector.replicate 4 0#16
  sv := 0#4
  frm := []
  busy := false
  txIdx := 0#4
  err := false
  errCause := 0#2
  rdata := 0#16
  resetDone := true
  cmdIn := []
  txReadyIn := []
  rstIn := []
  cycle := 0
  txOut := []
  rdataOut := []
  resetSeen := false

end Sys2Proof.Machine
end

