-- ==== Sys2Proof/Machine/Flags.lean ====
section
/-!
DEFINITION. The flags: the sample-valid bits (spec/10_state.md R12), the error cause codes (spec/60_exceptions.md R100)
and the STATUS word (R21).
-/

namespace Sys2Proof.Machine

/-- `sv[i] <- 1`, the other bits unchanged (R12, R80). -/
def setValid (sv : BitVec 4) (i : BitVec 2) : BitVec 4 := sv ||| (1#4 <<< i.toNat)

/-- `sv[i]` (R12). -/
def State.sampleValid (s : State) (i : BitVec 2) : Bool := s.sv.getLsbD i.toNat

/-- All four samples are valid, the condition of PACK (R12, R81). -/
def allValid : BitVec 4 := 0b1111#4

/-- The recorded value of a cause (R100). -/
def causeCode : Cause → BitVec 2
  | .illegalOpcode => 1#2
  | .reservedField => 2#2
  | .packIncomplete => 3#2

/-- A flag as a field of one bit. -/
def flagBit (b : Bool) : BitVec 1 := BitVec.ofBool b

/-- `STATUS = {4'b0000, sv[3:0], err_cause[1:0], err, busy, tx_idx[3:0]}` (R21). -/
def State.status (s : State) : Half :=
  0#4 ++ (s.sv ++ (s.errCause ++ (flagBit s.err ++ (flagBit s.busy ++ s.txIdx))))

end Sys2Proof.Machine
end

