-- ==== Sys2Proof/Machine/Operands.lean ====
section
/-!
DEFINITION. The operand forms: signed samples as patterns (spec/00_scope.md R5, R6), the two bytes of a 16-bit value
(spec/20_memory.md R35) and the sample registers (spec/10_state.md R11).
-/

namespace Sys2Proof.Machine

/-- `u16(s) = s mod 2^16`, the pattern of a signed sample (R5). -/
def u16 (s : Int) : Half := BitVec.ofInt 16 s

/-- `s16(u)`, the inverse of `u16` on -32768..32767 (R5). -/
def s16 (u : Half) : Int := u.toInt

/-- `v[7:0]`, the byte sent first (R35). -/
def lowByte (v : Half) : Byte := v.extractLsb' 0 8

/-- `v[15:8]`, the byte sent second (R35). -/
def highByte (v : Half) : Byte := v.extractLsb' 8 8

/-- `zext_16(b)` (R5, R73). -/
def zext16 (b : Byte) : Half := b.setWidth 16

/-- `smp[i]`. -/
def State.sample (s : State) (i : BitVec 2) : Half := s.smp[i.toNat]'i.isLt

/-- `smp[i] <- v`, the other registers unchanged. -/
def setSample (smp : Vector Half 4) (i : BitVec 2) (v : Half) : Vector Half 4 := smp.set i.toNat v i.isLt

end Sys2Proof.Machine
end

