-- ==== Sys2Proof/Machine/Functions.lean ====
section
/-!
DEFINITION. The pure functions of the block: the CRC (spec/40_crc.md R73, R74) and the frame (spec/41_frame.md R82).
-/

namespace Sys2Proof.Machine

/-- One iteration of R73: shift right, and XOR with 0xA001 if the low bit was set. -/
def crcBit (a : Half) : Half := if a.getLsbD 0 then (a >>> 1) ^^^ Config.polynomial else a >>> 1

/-- `n` iterations of R73. -/
def crcBits : Nat → Half → Half
  | 0, a => a
  | n + 1, a => crcBits n (crcBit a)

/-- `crc_step8(a, b)`: XOR the byte into the low 8 bits, then exactly eight iterations (R73). -/
def crcStep8 (a : Half) (b : Byte) : Half := crcBits 8 (a ^^^ zext16 b)

/-- The fold of R74 continued from the accumulator value `a` (R76 item 3). -/
def crcFrom (a : Half) (bytes : List Byte) : Half := bytes.foldl crcStep8 a

/-- `crc16(B)` (R74). -/
def crc16 (bytes : List Byte) : Half := crcFrom Config.crcInitial bytes

/-- A 16-bit value as two bytes, low byte first (R35). -/
def littleEndian (v : Half) : List Byte := [lowByte v, highByte v]

/-- The eight data bytes `D` of R82, in input order. -/
def frameData (u0 u1 u2 u3 : Half) : List Byte :=
  littleEndian u0 ++ littleEndian u1 ++ littleEndian u2 ++ littleEndian u3

/-- `frame(u0, u1, u2, u3)`: the data bytes, then their CRC, little-endian (R82). -/
def frame (u0 u1 u2 u3 : Half) : Vector Byte 10 :=
  let c := crc16 (frameData u0 u1 u2 u3)
  #v[lowByte u0, highByte u0, lowByte u1, highByte u1, lowByte u2, highByte u2, lowByte u3, highByte u3,
     lowByte c, highByte c]

end Sys2Proof.Machine
end

