-- ==== Sys2Proof/Machine/Ops.lean ====
section
/-!
DEFINITION. The named operations: the frame buffer's reads and writes (spec/10_state.md R13), recording an error
(spec/60_exceptions.md R101), which is all this hardware has of an exception and from which nothing returns (R108), and
the updates the commands share.
-/

namespace Sys2Proof.Machine

/-- Go on from a next state; a fault or a refusal stops. -/
def andThen (r : Result) (f : State → Result) : Result :=
  match r with
  | .next s => f s
  | .fault e => .fault e
  | .refused e => .refused e

/-! ## The frame buffer -/

/-- What a byte that nothing has written reads as: no value (R13; log entry 2). -/
def Memory.unlisted : Option Byte := none

/-- The byte at index `k`. -/
def Memory.read : Memory → Nat → Option Byte
  | [], _ => Memory.unlisted
  | (a, b) :: m, k => if a = k then some b else Memory.read m k

/-- Store a byte at its place in the rising order. No byte equals "no value", so a write always lists its byte. -/
def Memory.insert : Memory → Nat → Byte → Memory
  | [], k, v => [(k, v)]
  | (a, b) :: m, k, v =>
    if k < a then (k, v) :: (a, b) :: m
    else if k = a then (k, v) :: m
    else (a, b) :: Memory.insert m k v

/-- `MemWrite(k, 1, v)` (R5). The ten indices are all that exist, so the index is one of them. -/
def Memory.write (m : Memory) (k : Fin 10) (v : Byte) : Memory := Memory.insert m k.val v

/-- The indices rise strictly. -/
def Memory.rising : Memory → Bool
  | [] => true
  | c :: m => m.all (fun d => decide (c.1 < d.1)) && Memory.rising m

/-- The canonical form: indices strictly rising and all of 0..9, so that equal contents are equal lists. -/
def Memory.wf (m : Memory) : Bool := Memory.rising m && m.all (fun c => decide (c.1 < 10))

/-- The ten indices in the order PACK writes them (R81: `for k in 0 .. 9`). -/
def frameIndices : List (Fin 10) := [0, 1, 2, 3, 4, 5, 6, 7, 8, 9]

/-- `for k in 0 .. 9 : MemWrite(k, 1, F[k])` (R81). -/
def Memory.writeFrame (m : Memory) (f : Vector Byte 10) : Memory :=
  frameIndices.foldl (fun m k => Memory.write m k f[k.val]) m

/-- `MemRead(k, 1)` (R5) by the 4-bit index: a byte that does not exist and a byte without a value fault. -/
def State.memRead (s : State) (k : BitVec 4) : Except Fault Byte :=
  if k.toNat < 10 then
    match Memory.read s.frm k.toNat with
    | some b => .ok b
    | none => .error .unwrittenFrameByte
  else .error .noSuchFrameByte

/-! ## Errors -/

/-- `raise IllegalCommand(c)`: the first cause since reset is kept, and nothing else changes (R101). -/
def State.raise (s : State) (c : Cause) : State :=
  if s.err then s else { s with err := true, errCause := causeCode c }

/-! ## Updates -/

/-- `crc_acc <- v`. -/
def State.writeCrc (s : State) (v : Half) : State := { s with crcAcc := v }

/-- `rdata <- v`. -/
def State.writeRdata (s : State) (v : Half) : State := { s with rdata := v }

/-- `smp[i] <- v ; sv[i] <- 1` (R80). -/
def State.writeSample (s : State) (i : BitVec 2) (v : Half) : State :=
  { s with smp := setSample s.smp i v, sv := setValid s.sv i }

/-- The frame of the four sample registers (R81, R82). -/
def State.sampleFrame (s : State) : Vector Byte 10 :=
  frame (s.sample 0#2) (s.sample 1#2) (s.sample 2#2) (s.sample 3#2)

/-- Store the frame and start sending it, using up the samples (R81). -/
def State.startFrame (s : State) (f : Vector Byte 10) : State :=
  { s with frm := Memory.writeFrame s.frm f, busy := true, txIdx := 0#4, sv := 0#4 }

/-- `Emit(b)`, then `tx_idx` moves on, or the frame ends after byte 9 (R83); `k` is `tx_idx` before the edge. -/
def State.sendByte (s : State) (k : BitVec 4) (b : Byte) : State :=
  if k = Config.lastFrameIndex then { s with txOut := s.txOut ++ [b], busy := false, txIdx := 0#4 }
  else { s with txOut := s.txOut ++ [b], txIdx := k + 1#4 }

end Sys2Proof.Machine
end

