-- ==== Sys2Proof/Machine/Crc.lean ====
section
/-!
DEFINITION. The CRC generator's commands (spec/40_crc.md R70 to R72).
-/

namespace Sys2Proof.Machine

/-- CRC_INIT: `crc_acc <- 0xFFFF` (R70). -/
def execCrcInit (s : State) : Result := .next (s.writeCrc Config.crcInitial)

/-- CRC_FEED b: `crc_acc <- crc_step8(crc_acc, b)` (R71). -/
def execCrcFeed (b : Byte) (s : State) : Result := .next (s.writeCrc (crcStep8 s.crcAcc b))

/-- CRC_READ: `rdata <- crc_acc` (R72). -/
def execCrcRead (s : State) : Result := .next (s.writeRdata s.crcAcc)

end Sys2Proof.Machine
end

