-- ==== Sys2Proof/Machine/Frame.lean ====
section
/-!
DEFINITION. The frame packer's commands (spec/41_frame.md R80, R81).
-/

namespace Sys2Proof.Machine

/-- LOAD_SAMPLE i, v: `smp[i] <- v ; sv[i] <- 1` (R80). -/
def execLoadSample (i : BitVec 2) (v : Half) (s : State) : Result := .next (s.writeSample i v)

/-- PACK (R81, with the priority of R104): held while a frame is being sent, which changes nothing (R105; the cycle keeps
the word presented); PACK_INCOMPLETE unless all four samples are valid; else the frame is stored and its sending starts. -/
def execPack (s : State) : Result :=
  if s.busy then .next s
  else if s.sv ≠ allValid then .next (s.raise .packIncomplete)
  else .next (s.startFrame s.sampleFrame)

end Sys2Proof.Machine
end

