-- ==== Sys2Proof/Machine/Status.lean ====
section
/-!
DEFINITION. The control and status commands (spec/42_status.md R90, R91).
-/

namespace Sys2Proof.Machine

/-- NOP: no state is written (R90). -/
def execNop (s : State) : Result := .next s

/-- STATUS_READ: `rdata <- STATUS` (R91, R21). -/
def execStatusRead (s : State) : Result := .next (s.writeRdata s.status)

end Sys2Proof.Machine
end

