-- ==== Sys2Proof/WellFormed.lean ====
section
/-!
DEFINITION. The operand ranges an assembler must enforce (spec/30_encoding.md R58). A term of `Instr` needs no check:
its operands have the widths of the encoding's fields.
-/

namespace Sys2Proof

/-- `b` is an integer 0..255 (R58). -/
def isByteOperand (b : Int) : Bool := decide (0 ≤ b) && decide (b ≤ 255)

/-- `i` is an integer 0..3 (R58). -/
def isIndexOperand (i : Int) : Bool := decide (0 ≤ i) && decide (i ≤ 3)

/-- `v` is an integer -32768..65535: a signed sample, or the same pattern written unsigned (R58). -/
def isSampleOperand (v : Int) : Bool := decide (-32768 ≤ v) && decide (v ≤ 65535)

/-- `v` is an integer -32768..32767, the range OUTPUT takes (R58). -/
def isSignedSample (v : Int) : Bool := decide (-32768 ≤ v) && decide (v ≤ 32767)

/-- `w` is a 32-bit value (R58, `.word`). -/
def isWordOperand (w : Int) : Bool := decide (0 ≤ w) && decide (w ≤ 0xFFFFFFFF)

/-- Every operand of the line is inside its range; the assembler refuses the line otherwise and never truncates (R58). -/
def AsmLine.wellFormed : AsmLine → Bool
  | .nop => true
  | .crcInit => true
  | .crcFeed b => isByteOperand b
  | .crcRead => true
  | .loadSample i v => isIndexOperand i && isSampleOperand v
  | .pack => true
  | .statusRead => true
  | .word w => isWordOperand w
  | .crcBuf bytes => bytes.all isByteOperand
  | .output v0 v1 v2 v3 => isSignedSample v0 && isSignedSample v1 && isSignedSample v2 && isSignedSample v3

end Sys2Proof
end

