-- ==== Sys2Proof/Decode.lean ====
section
/-!
DEFINITION. The decoder of spec/30_encoding.md R55, total on all 32-bit words, and after it the encoder, the opcode map of
R54 and the assembler's lowering of R58.
-/

namespace Sys2Proof

/-! ## The fields of a command word (R50) -/

/-- `cmd[31:28]`, the opcode (R51). -/
def opField (w : Word) : BitVec 4 := w.extractLsb' 28 4

/-- `cmd[27:0]`, all that is not the opcode. -/
def belowOp (w : Word) : BitVec 28 := w.extractLsb' 0 28

/-- `cmd[27:8]`, which CRC_FEED's row requires to be zero (R54). -/
def feedReserved (w : Word) : BitVec 20 := w.extractLsb' 8 20

/-- `cmd[27:18]`, the field `rsv` (R50). -/
def rsvField (w : Word) : BitVec 10 := w.extractLsb' 18 10

/-- `cmd[17:16]`, the sample index (R52). -/
def idxField (w : Word) : BitVec 2 := w.extractLsb' 16 2

/-- `cmd[15:0]`, the sample pattern (R53). -/
def dataField (w : Word) : Half := w.extractLsb' 0 16

/-- `cmd[7:0]`, CRC_FEED's byte (R53). -/
def byteField (w : Word) : Byte := w.extractLsb' 0 8

/-! ## The decoder (R55) -/

/-- A command without operands: every bit below the opcode must be zero (R55). -/
def decodeBare (w : Word) (i : Instr) : Decoded :=
  if belowOp w = 0#28 then .command i else .illegal .reservedField

/-- CRC_FEED: `w[27:8]` must be zero (R55). -/
def decodeFeed (w : Word) : Decoded :=
  if feedReserved w = 0#20 then .command (.crcFeed (byteField w)) else .illegal .reservedField

/-- LOAD_SAMPLE: `w[27:18]` must be zero (R55). -/
def decodeLoad (w : Word) : Decoded :=
  if rsvField w = 0#10 then .command (.loadSample (idxField w) (dataField w)) else .illegal .reservedField

/-- `decode` of R55: the opcode is checked before the fields (R104). -/
def decode (w : Word) : Decoded :=
  match (opField w).toNat with
  | 0 => decodeBare w .nop
  | 1 => decodeBare w .crcInit
  | 2 => decodeFeed w
  | 3 => decodeBare w .crcRead
  | 4 => decodeLoad w
  | 5 => decodeBare w .pack
  | 6 => decodeBare w .statusRead
  | _ => .illegal .illegalOpcode

/-- The instruction the decoder reads from a table row's bits; a command is one 32-bit word, bit 0 least significant
(R50), and every bit from `nbits` up is zero. -/
def decodeTableWord (nbits w : Nat) : Option Instr :=
  match decode (BitVec.ofNat 32 (w % 2 ^ nbits)) with
  | .command i => some i
  | .illegal _ => none

/-! ## The encoder (R50, R54) -/

/-- The word that spells a command: the fields side by side, opcode first. -/
def encode : Instr → Word
  | .nop => 0x0#4 ++ 0#28
  | .crcInit => 0x1#4 ++ 0#28
  | .crcFeed b => 0x2#4 ++ (0#20 ++ b)
  | .crcRead => 0x3#4 ++ 0#28
  | .loadSample i v => 0x4#4 ++ (0#10 ++ (i ++ v))
  | .pack => 0x5#4 ++ 0#28
  | .statusRead => 0x6#4 ++ 0#28

/-! ## The opcode map (R54) -/

/-- The row of the opcode map that a command belongs to. -/
def Instr.row : Instr → OpcodeRow
  | .nop => ⟨"NOP", 0x00000000#32, 0xFFFFFFFF#32⟩
  | .crcInit => ⟨"CRC_INIT", 0x10000000#32, 0xFFFFFFFF#32⟩
  | .crcFeed _ => ⟨"CRC_FEED", 0x20000000#32, 0xFFFFFF00#32⟩
  | .crcRead => ⟨"CRC_READ", 0x30000000#32, 0xFFFFFFFF#32⟩
  | .loadSample _ _ => ⟨"LOAD_SAMPLE", 0x40000000#32, 0xFFFC0000#32⟩
  | .pack => ⟨"PACK", 0x50000000#32, 0xFFFFFFFF#32⟩
  | .statusRead => ⟨"STATUS_READ", 0x60000000#32, 0xFFFFFFFF#32⟩

/-- The seven rows, in the table's order. -/
def opcodeRows : List OpcodeRow :=
  [Instr.nop.row, Instr.crcInit.row, (Instr.crcFeed 0#8).row, Instr.crcRead.row,
   (Instr.loadSample 0#2 0#16).row, Instr.pack.row, Instr.statusRead.row]

/-- The word `w` spells the command of the row `r` (R54). -/
def OpcodeRow.spells (r : OpcodeRow) (w : Word) : Prop := w &&& r.mask = r.pattern

/-! ## The assembler (R58) -/

/-- The words of a line whose operands are in range. -/
def AsmLine.words : AsmLine → List Word
  | .nop => [encode .nop]
  | .crcInit => [encode .crcInit]
  | .crcFeed b => [encode (.crcFeed (BitVec.ofInt 8 b))]
  | .crcRead => [encode .crcRead]
  | .loadSample i v => [encode (.loadSample (BitVec.ofInt 2 i) (BitVec.ofInt 16 v))]
  | .pack => [encode .pack]
  | .statusRead => [encode .statusRead]
  | .word w => [BitVec.ofInt 32 w]
  | .crcBuf bytes =>
    encode .crcInit :: bytes.map (fun b => encode (.crcFeed (BitVec.ofInt 8 b))) ++ [encode .crcRead]
  | .output v0 v1 v2 v3 =>
    [encode (.loadSample 0#2 (BitVec.ofInt 16 v0)), encode (.loadSample 1#2 (BitVec.ofInt 16 v1)),
     encode (.loadSample 2#2 (BitVec.ofInt 16 v2)), encode (.loadSample 3#2 (BitVec.ofInt 16 v3)),
     encode .pack]

/-- The words a line assembles to, or none where an operand is outside its range (R58: refused, never truncated). -/
def assemble (a : AsmLine) : Option (List Word) :=
  if a.wellFormed then some a.words else none

end Sys2Proof
end

