-- ==== Sys2Proof/Machine/Ports.lean ====
section
/-!
DEFINITION. The ports of the block (spec/20_memory.md R30 to R34): the inputs of this cycle as the state holds them, and
the outputs.
-/

namespace Sys2Proof.Machine

/-! ## Inputs -/

/-- The level of `rst` in this cycle; a cycle the schedule does not list is one without reset (log entry 4). -/
def State.rst (s : State) : Bool := s.rstIn.headD false

/-- The level of `tx_ready` in this cycle; for a cycle the schedule does not list, the free value (log entry 5). -/
def State.txReady (s : State) : Bool :=
  match s.txReadyIn with
  | r :: _ => r
  | [] => Config.sinkReady s.cycle

/-- The word on `cmd` if `cmd_valid == 1`, or none (R30, R39). -/
def State.presented (s : State) : Option Word := s.cmdIn.headD none

/-! ## Outputs -/

/-- `cmd_ready = (rst == 0) and not (decode(cmd) == PACK and busy == 1)` for the word on `cmd` (R31). This and the wires
below are the levels a cycle decides with; what is seen of them is `State.outputs`. -/
def State.cmdReady (s : State) (w : Word) : Bool :=
  !s.rst && !(decide (decode w = .command .pack) && s.busy)

/-- `tx_valid = busy and (rst == 0)` (R33). -/
def State.txValid (s : State) : Bool := s.busy && !s.rst

/-- `tx_data = frm[tx_idx]` while `tx_valid == 1`, else 0x00 (R33). -/
def State.txData (s : State) : Except Fault Byte :=
  if s.txValid then s.memRead s.txIdx else .ok Config.idleTxData

/-- `busy_o` (R34). -/
def State.busyO (s : State) : Bool := s.busy

/-- `err_o` (R34). -/
def State.errO (s : State) : Bool := s.err

/-- The six outputs (R30). -/
structure Outputs where
  cmdReady : Bool
  rdata : Half
  txValid : Bool
  txData : Byte
  busyO : Bool
  errO : Bool
deriving DecidableEq, Repr

/-- What is seen at the outputs in this cycle with `cmd` on the command port: the word presented, or, while
`cmd_valid == 0`, any word (R30). Before the first reset edge the look faults, whatever it is at (R120; log entry 7). -/
def State.outputs (s : State) (cmd : Word) : Except Fault Outputs :=
  if s.resetDone then
    match s.txData with
    | .ok b => .ok ⟨s.cmdReady cmd, s.rdata, s.txValid, b, s.busyO, s.errO⟩
    | .error e => .error e
  else .error .observedBeforeReset

end Sys2Proof.Machine
end

