-- ==== Sys2Proof/Machine/Cycle.lean ====
section
/-!
DEFINITION. One clock cycle (spec/20_memory.md R40): the command part, the tx part (spec/41_frame.md R83) and reset
(spec/70_reset_and_hazards.md R120), which outranks both.
-/

namespace Sys2Proof.Machine

/-- Append to the observation the value `rdata` took, after a command that writes it (R126). -/
def recordRead (i : Instr) (s : State) : State :=
  match i with
  | .nop => s
  | .crcInit => s
  | .crcFeed _ => s
  | .crcRead => { s with rdataOut := s.rdataOut ++ [s.rdata] }
  | .loadSample _ _ => s
  | .pack => s
  | .statusRead => { s with rdataOut := s.rdataOut ++ [s.rdata] }

/-- The effect of an accepted word: its command's, or the error of an illegal word (R56, R101). -/
def acceptWord (w : Word) (s : State) : Result :=
  match decode w with
  | .command i => andThen (exec i s) (fun t => .next (recordRead i t))
  | .illegal c => .next (s.raise c)

/-- The issuer goes on to what it presents next. -/
def State.nextPresentation (s : State) : State := { s with cmdIn := s.cmdIn.tail }

/-- The command part of a cycle without reset (R31, R40): a word is accepted and leaves the stream, or is held and
stays; a cycle with nothing presented passes. -/
def commandPart (s : State) : Result :=
  match s.presented with
  | none => .next s.nextPresentation
  | some w =>
    if s.cmdReady w then andThen (acceptWord w s) (fun t => .next t.nextPresentation)
    else .next s

/-- The tx part of a cycle (R33, R83): decided and read from the state `pre` before the edge, written into `post`. -/
def txPart (pre post : State) : Result :=
  if pre.txValid && pre.txReady then
    match pre.memRead pre.txIdx with
    | .ok b => .next (post.sendByte pre.txIdx b)
    | .error e => .fault e
  else .next post

/-- The clock edge: the schedules move to the next cycle. -/
def State.tick (s : State) : State :=
  { s with txReadyIn := s.txReadyIn.tail, rstIn := s.rstIn.tail, cycle := s.cycle + 1 }

/-- A cycle with `rst == 1`: every element takes its reset value, bytes already sent stay sent, and what the issuer
presents in this cycle has no effect (R120, R121; log entry 6). -/
def State.resetCycle (s : State) : State :=
  { State.reset with
    cmdIn := s.cmdIn.tail
    txReadyIn := s.txReadyIn.tail
    rstIn := s.rstIn.tail
    cycle := s.cycle + 1
    txOut := s.txOut
    rdataOut := s.rdataOut
    resetSeen := true }

/-- A cycle with `rst == 0` after the first reset (R40). -/
def runCycle (s : State) : Result :=
  andThen (commandPart s) fun s1 => andThen (txPart s s1) fun s2 => .next s2.tick

/-- One clock cycle; without reset before the first reset edge it faults (R120; log entry 7). -/
def clockCycle (s : State) : Result :=
  if s.rst then .next s.resetCycle
  else if s.resetDone then runCycle s
  else .fault .observedBeforeReset

/-- The `rst` schedule with this cycle free of reset. -/
def noResetNow : List Bool → List Bool
  | [] => []
  | _ :: r => false :: r

/-- `w` as what the issuer presents next, in a cycle that can take it: no reset, and the first reset done (log entry 8). -/
def State.presentWord (s : State) (w : Word) : State :=
  { s with cmdIn := some w :: s.cmdIn, rstIn := noResetNow s.rstIn, resetDone := true }

end Sys2Proof.Machine
end

