-- ==== Sys2Proof/Machine/Step.lean ====
section
/-!
DEFINITION. The step: one clock cycle; and the placing of a word where the next step takes its command.
-/

namespace Sys2Proof.Machine

/-- One step is one clock cycle. -/
def step (s : State) : Host.Outcome State Fault Refusal := clockCycle s

/-- The word of `nbits` bits `w`, every bit above zero, presented as the issuer's next command. -/
def State.withFetchWord (s : State) (nbits w : Nat) : State :=
  s.presentWord (BitVec.ofNat 32 (w % 2 ^ nbits))

end Sys2Proof.Machine
end

