-- ==== Sys2Proof/Safety.lean ====
section
/-!
DEFINITION. What claims are stated with: runs, the invariants of spec/10_state.md R22, the end of a run and its
observation (spec/70_reset_and_hazards.md R126), the fault predicate (spec/60_exceptions.md R111) and what no rule can
observe (R11, R13).
-/

namespace Sys2Proof.Machine

/-! ## Runs -/

/-- `n` cycles, stopping at the first fault. -/
def runFor (n : Nat) (s : State) : Result := Sys2Proof.core.run n s

/-- The commands of a list, executed one after the other. -/
def execAll : List Instr → State → Result
  | [], s => .next s
  | i :: is, s => andThen (exec i s) (execAll is)

/-- The byte a command folds into the accumulator, if it is a CRC_FEED. -/
def fedByte : Instr → Option Byte
  | .nop => none
  | .crcInit => none
  | .crcFeed b => some b
  | .crcRead => none
  | .loadSample _ _ => none
  | .pack => none
  | .statusRead => none

/-- `rst` is low in each of the next `n` cycles. -/
def State.quietFor (s : State) (n : Nat) : Prop := ∀ b ∈ s.rstIn.take n, b = false

/-- `rst` is low in the cycle after this one. -/
def State.quietAfterReset (s : State) : Prop := s.rstIn.tail.headD false = false

/-- A cycle in which the first reset has been done and `rst` is low: one whose command and transfer take effect. -/
def State.running (s : State) : Prop := s.resetDone = true ∧ s.rst = false

/-- A tx byte is transferred in this cycle (R33). -/
def State.transfers (s : State) : Bool := s.txValid && s.txReady

/-- What a cycle becomes once its command part has given `u`: the tx part, then the clock edge (R40). -/
def State.edge (s u : State) : Result := andThen (txPart s u) fun v => .next v.tick

/-! ## The frame buffer's contents -/

/-- The buffer holds the ten bytes of `f`. -/
def Memory.holds (m : Memory) (f : Vector Byte 10) : Prop :=
  ∀ k : Fin 10, Memory.read m k.val = some f[k.val]

/-- The last two bytes of a frame are the CRC of the first eight, low byte first (R22 item 5). -/
def frameCrcOk (f : Vector Byte 10) : Prop :=
  f[8] = lowByte (crc16 (f.toList.take 8)) ∧ f[9] = highByte (crc16 (f.toList.take 8))

/-! ## Invariants -/

/-- The state invariants of R22 (items 1, 2, 3 and 5; item 4 is about two states), with the buffer in canonical form. -/
structure State.Inv (s : State) : Prop where
  frmWf : Memory.wf s.frm = true
  idleIndex : s.busy = false → s.txIdx = 0#4
  indexRange : s.txIdx.toNat ≤ 9
  errCause : s.err = false ↔ s.errCause = 0#2
  frameWhole : s.busy = true → ∃ f : Vector Byte 10, Memory.holds s.frm f ∧ frameCrcOk f

/-- The bytes of whole frames, one frame after the other. -/
def wholeFrames (samples : List (Vector Half 4)) : List Byte :=
  samples.flatMap fun u => (frame u[0] u[1] u[2] u[3]).toList

/-- What the sink has received since the run began, while no reset has come: whole frames, then the part already sent of
the frame in flight (R2, R84). -/
def State.sentWholeFrames (s : State) : Prop :=
  s.resetSeen = false →
    ∃ samples : List (Vector Half 4), ∃ part : List Byte,
      s.txOut = wholeFrames samples ++ part ∧
      (s.busy = false → part = []) ∧
      (s.busy = true → ∃ u : Vector Half 4,
        Memory.holds s.frm (frame u[0] u[1] u[2] u[3]) ∧
        part = (frame u[0] u[1] u[2] u[3]).toList.take s.txIdx.toNat)

/-! ## The end of a run -/

/-- Every word has been accepted, no frame is in flight and no reset has come (R126); and the first reset has been done,
before which nothing may be observed (R120). -/
def State.finished (s : State) : Prop :=
  s.resetDone = true ∧ (∀ p ∈ s.cmdIn, p = none) ∧ s.busy = false ∧ s.resetSeen = false

/-- The observation of a run (R126). -/
structure Observation where
  sent : List Byte
  reads : List Half
  err : Bool
  errCause : BitVec 2
deriving DecidableEq, Repr

/-- The observation of the run that ends in this state (R126). -/
def State.observation (s : State) : Observation := ⟨s.txOut, s.rdataOut, s.err, s.errCause⟩

/-- The model's fault predicate (R111): an IllegalCommand has been raised since reset. -/
def State.faulted (s : State) : Prop := s.err = true

/-- A run that never reaches a finished state (R106: a stuck sink). -/
def State.stuck (s : State) : Prop := ∀ n t, runFor n s = .next t → ¬ t.finished

/-! ## What cannot be observed -/

/-- Two states that differ at most in what no rule can observe: a sample register whose valid bit is 0 (R11) and the
frame buffer while no frame is being sent (R13). -/
structure State.sameSeen (s t : State) : Prop where
  crcAcc : s.crcAcc = t.crcAcc
  sv : s.sv = t.sv
  smp : ∀ i : BitVec 2, s.sampleValid i = true → s.sample i = t.sample i
  busy : s.busy = t.busy
  frm : s.busy = true → s.frm = t.frm
  txIdx : s.txIdx = t.txIdx
  err : s.err = t.err
  errCause : s.errCause = t.errCause
  rdata : s.rdata = t.rdata
  resetDone : s.resetDone = t.resetDone
  cmdIn : s.cmdIn = t.cmdIn
  txReadyIn : s.txReadyIn = t.txReadyIn
  rstIn : s.rstIn = t.rstIn
  cycle : s.cycle = t.cycle
  txOut : s.txOut = t.txOut
  rdataOut : s.rdataOut = t.rdataOut
  resetSeen : s.resetSeen = t.resetSeen

end Sys2Proof.Machine
end

