-- ==== Sys2Proof/Certificates/Slice0/Obligations.lean ====
section
/-!
DEFINITION. The statements for the provers. `R<n>` is a numbered rule of spec/.
-/

open Sys2Proof Sys2Proof.Machine

/-! ## Encoding -/

/-- R50 to R55: a word decodes to a command just when it is that command's encoding, with every operand at every value;
so decoding inverts encoding, no two commands share a word, and no bit of a word is dropped. -/
def Obligations.DecodeIsExactlyTheInverseOfEncode : Prop :=
  ∀ (w : Word) (i : Instr), decode w = .command i ↔ w = encode i

/-- R54: the rows of the opcode map, with the `op` column; every mask covers bits 31:28; no word spells two rows; a word
spells a row just when it decodes to that row's command, with the operand fields of the row; a word that matches no row
is illegal. -/
def Obligations.OpcodeMapDecidesTheCommand : Prop :=
  opcodeRows.map (fun r => (r.mnemonic, r.pattern, r.mask)) =
    [("NOP", 0x00000000#32, 0xFFFFFFFF#32), ("CRC_INIT", 0x10000000#32, 0xFFFFFFFF#32),
     ("CRC_FEED", 0x20000000#32, 0xFFFFFF00#32), ("CRC_READ", 0x30000000#32, 0xFFFFFFFF#32),
     ("LOAD_SAMPLE", 0x40000000#32, 0xFFFC0000#32), ("PACK", 0x50000000#32, 0xFFFFFFFF#32),
     ("STATUS_READ", 0x60000000#32, 0xFFFFFFFF#32)] ∧
  opcodeRows.map (fun r => opField r.pattern) = [0x0#4, 0x1#4, 0x2#4, 0x3#4, 0x4#4, 0x5#4, 0x6#4] ∧
  (∀ r ∈ opcodeRows, r.mask &&& 0xF0000000#32 = 0xF0000000#32) ∧
  opcodeRows.Pairwise (fun r q => ∀ w, ¬ (r.spells w ∧ q.spells w)) ∧
  (∀ w i, decode w = .command i → i.row ∈ opcodeRows ∧ i.row.spells w) ∧
  (∀ w, ∀ r ∈ opcodeRows, r.spells w → ∃ i, decode w = .command i ∧ i.row = r) ∧
  (∀ w b, decode w = .command (.crcFeed b) → b = w.extractLsb' 0 8) ∧
  (∀ w i v, decode w = .command (.loadSample i v) → i = w.extractLsb' 16 2 ∧ v = w.extractLsb' 0 16) ∧
  (∀ w, (∀ r ∈ opcodeRows, ¬ r.spells w) → ∃ c, decode w = .illegal c)

/-- R55: the verdict on every word, the opcode checked before the fields. -/
def Obligations.DecoderGivesTheVerdictsOfItsPseudocode : Prop :=
  ∀ w : Word,
    (7 ≤ (w.extractLsb' 28 4).toNat → decode w = .illegal .illegalOpcode) ∧
    (w.extractLsb' 28 4 ∈ [0x0#4, 0x1#4, 0x3#4, 0x5#4, 0x6#4] → w.extractLsb' 0 28 ≠ 0#28 →
      decode w = .illegal .reservedField) ∧
    (w.extractLsb' 0 28 = 0#28 →
      (w.extractLsb' 28 4 = 0x0#4 → decode w = .command .nop) ∧
      (w.extractLsb' 28 4 = 0x1#4 → decode w = .command .crcInit) ∧
      (w.extractLsb' 28 4 = 0x3#4 → decode w = .command .crcRead) ∧
      (w.extractLsb' 28 4 = 0x5#4 → decode w = .command .pack) ∧
      (w.extractLsb' 28 4 = 0x6#4 → decode w = .command .statusRead)) ∧
    (w.extractLsb' 28 4 = 0x2#4 →
      decode w = if w.extractLsb' 8 20 ≠ 0#20 then .illegal .reservedField
        else .command (.crcFeed (w.extractLsb' 0 8))) ∧
    (w.extractLsb' 28 4 = 0x4#4 →
      decode w = if w.extractLsb' 18 10 ≠ 0#10 then .illegal .reservedField
        else .command (.loadSample (w.extractLsb' 16 2) (w.extractLsb' 0 16)))

/-- R56: a reserved opcode, and a nonzero must-be-zero bit under a defined opcode, are accepted (`rst` low) and only
recorded; every word is a command or illegal with one of these two causes, and none of the illegal words is a command. -/
def Obligations.ReservedWordsAreAcceptedAndOnlyRecorded : Prop :=
  (∀ (s : State) (w : Word), 7 ≤ (opField w).toNat →
    (s.rst = false → s.cmdReady w = true) ∧
    acceptWord w s = .next (if s.err then s else { s with err := true, errCause := 1#2 })) ∧
  (∀ (s : State) (w : Word), (opField w).toNat ≤ 6 → (∀ r ∈ opcodeRows, ¬ r.spells w) →
    (s.rst = false → s.cmdReady w = true) ∧
    acceptWord w s = .next (if s.err then s else { s with err := true, errCause := 2#2 })) ∧
  (∀ w : Word, (∃ i, decode w = .command i) ∨ decode w = .illegal .illegalOpcode ∨ decode w = .illegal .reservedField) ∧
  (∀ w i, decode w = .command i → (opField w).toNat ≤ 6 ∧ ∃ r ∈ opcodeRows, r.spells w)

/-- The words of spec/95_test_vectors.md section 4 decode as its table says. -/
def Obligations.SpecWordsDecodeAsTheTableSays : Prop :=
  decode 0x00000000#32 = .command .nop ∧ decode 0x10000000#32 = .command .crcInit ∧
  decode 0x20000031#32 = .command (.crcFeed 0x31#8) ∧ decode 0x200000FF#32 = .command (.crcFeed 0xFF#8) ∧
  decode 0x30000000#32 = .command .crcRead ∧
  decode 0x4003FFFF#32 = .command (.loadSample 3#2 0xFFFF#16) ∧
  decode 0x40011234#32 = .command (.loadSample 1#2 0x1234#16) ∧
  decode 0x40008000#32 = .command (.loadSample 0#2 0x8000#16) ∧
  decode 0x50000000#32 = .command .pack ∧ decode 0x60000000#32 = .command .statusRead ∧
  decode 0x00000001#32 = .illegal .reservedField ∧ decode 0x20000100#32 = .illegal .reservedField ∧
  decode 0x40040000#32 = .illegal .reservedField ∧ decode 0x50010000#32 = .illegal .reservedField ∧
  decode 0x70000000#32 = .illegal .illegalOpcode ∧ decode 0xF0000000#32 = .illegal .illegalOpcode ∧
  decode 0x7FFFFFFF#32 = .illegal .illegalOpcode

/-- R58: what the assembler's forms give inside their operand ranges, that it refuses outside them, and how CRC_BUF and
OUTPUT expand. The `.word` clause is the model's reading of "any 32-bit value" (log entry 13): an integer 0..0xFFFFFFFF is
taken, every other, negative ones too, is refused. -/
def Obligations.AssemblerEncodesAndRefusesByRange : Prop :=
  assemble .nop = some [0x00000000#32] ∧ assemble .crcInit = some [0x10000000#32] ∧
  assemble .crcRead = some [0x30000000#32] ∧ assemble .pack = some [0x50000000#32] ∧
  assemble .statusRead = some [0x60000000#32] ∧
  (∀ b : Int, assemble (.crcFeed b) =
    if 0 ≤ b ∧ b ≤ 255 then some [BitVec.ofInt 32 (0x20000000 + b)] else none) ∧
  (∀ i v : Int, assemble (.loadSample i v) =
    if (0 ≤ i ∧ i ≤ 3) ∧ -32768 ≤ v ∧ v ≤ 65535 then
      some [BitVec.ofInt 32 (0x40000000 + i * 0x10000 + v % 0x10000)] else none) ∧
  (∀ w : Int, assemble (.word w) = if 0 ≤ w ∧ w ≤ 0xFFFFFFFF then some [BitVec.ofInt 32 w] else none) ∧
  (∀ bs : List Int, (∀ b ∈ bs, 0 ≤ b ∧ b ≤ 255) →
    assemble (.crcBuf bs) =
      some (0x10000000#32 :: bs.map (fun b => BitVec.ofInt 32 (0x20000000 + b)) ++ [0x30000000#32])) ∧
  (∀ bs : List Int, (∃ b ∈ bs, b < 0 ∨ 255 < b) → assemble (.crcBuf bs) = none) ∧
  (∀ v0 v1 v2 v3 : Int, (∀ v ∈ [v0, v1, v2, v3], -32768 ≤ v ∧ v ≤ 32767) →
    assemble (.output v0 v1 v2 v3) =
      some [BitVec.ofInt 32 (0x40000000 + v0 % 0x10000), BitVec.ofInt 32 (0x40010000 + v1 % 0x10000),
        BitVec.ofInt 32 (0x40020000 + v2 % 0x10000), BitVec.ofInt 32 (0x40030000 + v3 % 0x10000), 0x50000000#32]) ∧
  (∀ v0 v1 v2 v3 : Int, (∃ v ∈ [v0, v1, v2, v3], v < -32768 ∨ 32767 < v) → assemble (.output v0 v1 v2 v3) = none)

/-! ## The CRC commands -/

/-- R70: CRC_INIT sets the accumulator to 0xFFFF and changes nothing else; its word; accepted in every state without
reset; it changes nothing right after reset; two in a row equal one. -/
def Obligations.CrcInitSetsTheAccumulator : Prop :=
  (∀ s : State, exec .crcInit s = .next { s with crcAcc := 0xFFFF#16 }) ∧
  decode 0x10000000#32 = .command .crcInit ∧
  (∀ w : Word, opField w = 0x1#4 → w ≠ 0x10000000#32 → decode w = .illegal .reservedField) ∧
  (∀ s : State, s.rst = false → s.cmdReady 0x10000000#32 = true) ∧
  exec .crcInit State.reset = .next State.reset ∧
  (∀ s : State, execAll [.crcInit, .crcInit] s = exec .crcInit s)

/-- R71: CRC_FEED folds its byte into the accumulator and changes nothing else; its words, and the words it shares its
opcode with; the fixed point, the plain shift and the cancelling corner; feeding twice folds twice. -/
def Obligations.CrcFeedFoldsItsByte : Prop :=
  (∀ (s : State) (b : Byte), exec (.crcFeed b) s = .next { s with crcAcc := crcStep8 s.crcAcc b }) ∧
  (∀ w : Word, w &&& 0xFFFFFF00#32 = 0x20000000#32 → decode w = .command (.crcFeed (w.extractLsb' 0 8))) ∧
  (∀ w : Word, opField w = 0x2#4 → w.extractLsb' 8 20 ≠ 0#20 →
    decode w = .illegal .reservedField ∧
    ∀ s : State, ∃ t, acceptWord w s = .next t ∧ t.err = true ∧ t.crcAcc = s.crcAcc) ∧
  (∀ (s : State) (w : Word), s.rst = false → opField w = 0x2#4 → s.cmdReady w = true) ∧
  crcStep8 0x0000#16 0x00#8 = 0x0000#16 ∧
  (∀ (a : Half) (b : Byte), a.extractLsb' 0 8 ^^^ b = 0#8 → crcStep8 a b = a >>> 8) ∧
  crcStep8 0xFFFF#16 0xFF#8 = 0x00FF#16 ∧
  (∀ (a : Half) (b : Byte), a ^^^ b.setWidth 16 = 0#16 → crcStep8 a b = 0#16) ∧
  crcStep8 0x00FF#16 0xFF#8 = 0x0000#16 ∧
  (∀ (s : State) (b : Byte),
    execAll [.crcFeed b, .crcFeed b] s = .next { s with crcAcc := crcStep8 (crcStep8 s.crcAcc b) b }) ∧
  crcStep8 0xFFFF#16 0x31#8 = 0x947E#16

/-- R72: CRC_READ copies the raw accumulator into `rdata` and changes nothing else; a second read gives the same, a later
feed goes on from the same value; 0xFFFF after reset and after CRC_INIT; the check value of "123456789"; the low byte of
a frame's CRC is the one sent first. -/
def Obligations.CrcReadCopiesTheAccumulator : Prop :=
  (∀ s : State, exec .crcRead s = .next { s with rdata := s.crcAcc }) ∧
  decode 0x30000000#32 = .command .crcRead ∧
  (∀ w : Word, opField w = 0x3#4 → w ≠ 0x30000000#32 → decode w = .illegal .reservedField) ∧
  (∀ s : State, s.rst = false → s.cmdReady 0x30000000#32 = true) ∧
  exec .crcRead State.reset = .next { State.reset with rdata := 0xFFFF#16 } ∧
  (∀ s : State, execAll [.crcInit, .crcRead] s = .next { s with crcAcc := 0xFFFF#16, rdata := 0xFFFF#16 }) ∧
  (∀ s : State, execAll [.crcRead, .crcRead] s = exec .crcRead s) ∧
  (∀ (s : State) (b : Byte), execAll [.crcRead, .crcFeed b] s =
    .next { s with rdata := s.crcAcc, crcAcc := crcStep8 s.crcAcc b }) ∧
  (∀ u0 u1 u2 u3 : Half, (frame u0 u1 u2 u3)[8] = (crc16 (frameData u0 u1 u2 u3)).extractLsb' 0 8) ∧
  (∀ s : State, execAll ([.crcInit] ++
      [0x31#8, 0x32#8, 0x33#8, 0x34#8, 0x35#8, 0x36#8, 0x37#8, 0x38#8, 0x39#8].map .crcFeed ++ [.crcRead]) s =
    .next { s with crcAcc := 0x4B37#16, rdata := 0x4B37#16 })

/-- R76 (an inference of the spec): after CRC_INIT, whatever other commands but CRC_INIT come between, the accumulator is
the crc16 of the bytes fed, in order; CRC_BUF leaves `rdata == crc16(B)`; feeding goes on from the crc16 of what came
before; the empty sequence and eight zero bytes. -/
def Obligations.CrcAccumulatorIsTheCrc16OfTheBytesFed : Prop :=
  (∀ (is : List Instr) (s : State), .crcInit ∉ is →
    ∃ t, execAll (.crcInit :: is) s = .next t ∧ t.crcAcc = crc16 (is.filterMap fedByte)) ∧
  (∀ (bs : List Byte) (s : State), execAll (.crcInit :: bs.map .crcFeed ++ [.crcRead]) s =
    .next { s with crcAcc := crc16 bs, rdata := crc16 bs }) ∧
  (∀ (bs cs : List Byte) (s : State), s.crcAcc = crc16 bs →
    execAll (cs.map .crcFeed) s = .next { s with crcAcc := crc16 (bs ++ cs) }) ∧
  crc16 [] = 0xFFFF#16 ∧ crc16 (List.replicate 8 0x00#8) = 0x0B40#16

/-- The residue law of R77, which the spec supplies from general knowledge and lets a model prove: a sequence followed by
its CRC, low byte first, has CRC 0; so the ten bytes of every frame have CRC 0, and feeding them reads 0. -/
def Obligations.CrcResidueOfAWholeFrameIsZero : Prop :=
  (∀ bs : List Byte, crc16 (bs ++ [lowByte (crc16 bs), highByte (crc16 bs)]) = 0#16) ∧
  (∀ u0 u1 u2 u3 : Half, crc16 (frame u0 u1 u2 u3).toList = 0#16) ∧
  (∀ (u0 u1 u2 u3 : Half) (s : State),
    execAll (.crcInit :: (frame u0 u1 u2 u3).toList.map .crcFeed ++ [.crcRead]) s =
      .next { s with crcAcc := 0#16, rdata := 0#16 })

/-- R75 (an inference of the spec): every 16-bit value is a possible accumulator; from any accumulator two bytes reach
it. -/
def Obligations.EveryAccumulatorValueIsReachable : Prop :=
  ∀ (s : State) (v : Half), ∃ b c : Byte, execAll [.crcFeed b, .crcFeed c] s = .next { s with crcAcc := v }

/-! ## The frame commands -/

/-- R80: LOAD_SAMPLE writes the one register and sets the one valid bit and changes nothing else; its words, and the words
it shares its opcode with; accepted while a frame is sent; the last of two loads of an index stays; loads of different
indices commute; the STATUS bit. -/
def Obligations.LoadSampleWritesOneSample : Prop :=
  (∀ (s : State) (i : BitVec 2) (v : Half), ∃ t, exec (.loadSample i v) s = .next t ∧
    (∀ j, t.sample j = if j = i then v else s.sample j) ∧
    (∀ j, t.sampleValid j = if j = i then true else s.sampleValid j) ∧
    t.status.getLsbD (8 + i.toNat) = true ∧
    t = { s with smp := t.smp, sv := t.sv }) ∧
  (∀ w : Word, w &&& 0xFFFC0000#32 = 0x40000000#32 →
    decode w = .command (.loadSample (w.extractLsb' 16 2) (w.extractLsb' 0 16))) ∧
  (∀ w : Word, opField w = 0x4#4 → w.extractLsb' 18 10 ≠ 0#10 →
    decode w = .illegal .reservedField ∧
    ∀ s : State, ∃ t, acceptWord w s = .next t ∧ t.err = true ∧ t.smp = s.smp ∧ t.sv = s.sv) ∧
  (∀ (s : State) (w : Word), s.rst = false → opField w = 0x4#4 → s.cmdReady w = true) ∧
  (∀ (s : State) (i : BitVec 2) (v v' : Half),
    execAll [.loadSample i v, .loadSample i v'] s = exec (.loadSample i v') s) ∧
  (∀ (s : State) (i j : BitVec 2) (v v' : Half), i ≠ j →
    execAll [.loadSample i v, .loadSample j v'] s = execAll [.loadSample j v', .loadSample i v] s) ∧
  (∀ n : Int, -32768 ≤ n → n ≤ 32767 → (u16 n).toInt = n) ∧
  (∀ s : State, decode 0x4002FFFE#32 = .command (.loadSample 2#2 (u16 (-2))) ∧
    ∃ t, exec (.loadSample 2#2 0xFFFE#16) s = .next t ∧ t.sample 2#2 = 0xFFFE#16 ∧ t.sampleValid 2#2 = true)

/-- R81: PACK is held while a frame is sent; with a sample missing it records PACK_INCOMPLETE and changes nothing else;
otherwise it stores the frame, starts sending it and uses up the samples, changing nothing else; its word; a second PACK
is PACK_INCOMPLETE; a held PACK is not accepted in the cycle of byte 9 but can be in the next; the two printed frames. -/
def Obligations.PackHoldsRaisesOrStartsTheFrame : Prop :=
  (∀ s : State, s.busy = true → s.cmdReady 0x50000000#32 = false) ∧
  (∀ s : State, s.busy = false → s.rst = false → s.cmdReady 0x50000000#32 = true) ∧
  (∀ s : State, s.busy = false → s.sv ≠ 0b1111#4 →
    exec .pack s = .next (if s.err then s else { s with err := true, errCause := 3#2 })) ∧
  (∀ s : State, s.busy = false → s.sv = 0b1111#4 →
    ∃ m : Memory, exec .pack s = .next { s with frm := m, busy := true, txIdx := 0#4, sv := 0b0000#4 } ∧
      Memory.holds m (frame (s.sample 0#2) (s.sample 1#2) (s.sample 2#2) (s.sample 3#2))) ∧
  decode 0x50000000#32 = .command .pack ∧
  (∀ w : Word, opField w = 0x5#4 → w ≠ 0x50000000#32 → decode w = .illegal .reservedField) ∧
  (∀ s t : State, s.busy = false → s.sv = 0b1111#4 → s.err = false → exec .pack s = .next t →
    exec .pack { t with busy := false } = .next { t with busy := false, err := true, errCause := 3#2 }) ∧
  (∀ (s : State) (rest : List (Option Word)) (b : Byte), s.running → s.busy = true → s.txIdx = 9#4 →
    s.txReady = true → Memory.read s.frm 9 = some b → s.cmdIn = some 0x50000000#32 :: rest →
    ∃ t, step s = .next t ∧ t.busy = false ∧ t.cmdIn = s.cmdIn ∧
      (t.rst = false → t.cmdReady 0x50000000#32 = true)) ∧
  ((frame 0#16 0#16 0#16 0#16)[8] = 0x40#8 ∧ (frame 0#16 0#16 0#16 0#16)[9] = 0x0B#8) ∧
  (frame 1#16 2#16 3#16 4#16).toList =
    [0x01#8, 0x00#8, 0x02#8, 0x00#8, 0x03#8, 0x00#8, 0x04#8, 0x00#8, 0x82#8, 0xA1#8]

/-- The model's choice (log entry 11): the meaning of PACK while a frame is sent, for which the rules give only the hold, is
the unchanged state; the cycle never asks for it, since it keeps the word presented. -/
def Obligations.PackMeaningWhileBusyIsTheUnchangedState : Prop :=
  (∀ s : State, s.busy = true → exec .pack s = .next s) ∧
  (∀ (s : State) (rest : List (Option Word)), s.busy = true → s.cmdIn = some 0x50000000#32 :: rest →
    commandPart s = .next s)

/-- R82: the ten bytes of a frame: four samples in input order, each low byte first, then the crc16 of those eight bytes,
low byte first. -/
def Obligations.FrameIsLittleEndianSamplesThenCrc : Prop :=
  ∀ u0 u1 u2 u3 : Half,
    ∃ c : Half, c = crc16 ((frame u0 u1 u2 u3).toList.take 8) ∧
      (frame u0 u1 u2 u3).toList =
        [u0.extractLsb' 0 8, u0.extractLsb' 8 8, u1.extractLsb' 0 8, u1.extractLsb' 8 8,
         u2.extractLsb' 0 8, u2.extractLsb' 8 8, u3.extractLsb' 0 8, u3.extractLsb' 8 8,
         c.extractLsb' 0 8, c.extractLsb' 8 8]

/-- R85 (an inference of the spec): a consumer that joins the two bytes of a sample of a frame and reads them as a signed
value gets the sample back. -/
def Obligations.SignedSamplesSurviveTheFrame : Prop :=
  (∀ s0 s1 s2 s3 : Int, (∀ n ∈ [s0, s1, s2, s3], -32768 ≤ n ∧ n ≤ 32767) →
    let f := frame (u16 s0) (u16 s1) (u16 s2) (u16 s3)
    s16 (f[1] ++ f[0]) = s0 ∧ s16 (f[3] ++ f[2]) = s1 ∧ s16 (f[5] ++ f[4]) = s2 ∧ s16 (f[7] ++ f[6]) = s3) ∧
  lowByte (u16 (-1)) = 0xFF#8 ∧ highByte (u16 (-1)) = 0xFF#8

/-! ## The status commands -/

/-- R90: NOP writes nothing; only the word 0 is a NOP, the others of its opcode set `err`; accepted in every state without
reset; a cycle with a NOP leaves what a cycle with nothing presented leaves. -/
def Obligations.NopChangesNothing : Prop :=
  (∀ s : State, exec .nop s = .next s) ∧
  decode 0x00000000#32 = .command .nop ∧
  (∀ w : Word, opField w = 0x0#4 → w ≠ 0x00000000#32 →
    decode w = .illegal .reservedField ∧ ∀ s : State, ∃ t, acceptWord w s = .next t ∧ t.err = true) ∧
  (∀ s : State, s.rst = false → s.cmdReady 0x00000000#32 = true) ∧
  (∀ (s : State) (rest : List (Option Word)),
    step { s with cmdIn := some 0x00000000#32 :: rest } = step { s with cmdIn := none :: rest })

/-- R21, and what R91 says of the command: STATUS_READ copies the STATUS word into `rdata` and changes nothing else; the
word's fields and reset value; accepted in every state without reset; in a cycle that transfers a byte it shows the state
before the transfer; the printed examples. -/
def Obligations.StatusReadCopiesTheStatusWord : Prop :=
  (∀ s : State, exec .statusRead s = .next { s with rdata := s.status }) ∧
  (∀ s : State, s.status.extractLsb' 0 4 = s.txIdx ∧ s.status.getLsbD 4 = s.busy ∧ s.status.getLsbD 5 = s.err ∧
    s.status.extractLsb' 6 2 = s.errCause ∧ s.status.extractLsb' 8 4 = s.sv ∧ s.status.extractLsb' 12 4 = 0#4) ∧
  State.reset.status = 0x0000#16 ∧
  decode 0x60000000#32 = .command .statusRead ∧
  (∀ w : Word, opField w = 0x6#4 → w ≠ 0x60000000#32 → decode w = .illegal .reservedField) ∧
  (∀ s : State, s.rst = false → s.cmdReady 0x60000000#32 = true) ∧
  (∀ (s t : State) (rest : List (Option Word)), s.running → s.cmdIn = some 0x60000000#32 :: rest →
    step s = .next t → t.rdata = s.status) ∧
  (∀ s : State, s.err = false → s.errCause = 0#2 →
    (s.sv = 0b1111#4 → s.busy = false → s.txIdx = 0#4 → s.status = 0x0F00#16) ∧
    (s.sv = 0b0000#4 → s.busy = true → s.txIdx = 0#4 → s.status = 0x0010#16) ∧
    (s.sv = 0b0000#4 → s.busy = true → s.txIdx = 3#4 → s.status = 0x0013#16))

/-! ## The cycle -/

/-- R40: when the word presented decodes to a command and is not held, the step runs that command on the state before the
edge, takes the word off the stream, records the read, and goes on with the tx part and the clock edge. -/
def Obligations.StepRunsTheDecodedCommand : Prop :=
  ∀ (s t : State) (w : Word) (i : Instr) (rest : List (Option Word)),
    s.running → s.cmdIn = some w :: rest → decode w = .command i → ¬ (i = .pack ∧ s.busy = true) →
    exec i s = .next t →
    step s = s.edge { recordRead i t with cmdIn := rest } ∧
    (s.transfers = false →
      step s = .next { recordRead i t with
        cmdIn := rest, txReadyIn := s.txReadyIn.tail, rstIn := s.rstIn.tail, cycle := s.cycle + 1 })

/-- R104: exactly one verdict applies to a presented word, in this order: reserved opcode; nonzero must-be-zero bit; for
PACK the hold, which records nothing and keeps the word presented, then the missing samples, tested as `sv` stands when
the PACK is accepted; otherwise the command executes. A later error is dropped. A tx transfer of the same cycle goes on
the same way in each. -/
def Obligations.OneVerdictPerWordInPriorityOrder : Prop :=
  ∀ (s : State) (w : Word) (rest : List (Option Word)), s.running → s.cmdIn = some w :: rest →
    (7 ≤ (opField w).toNat → step s = s.edge { s.raise .illegalOpcode with cmdIn := rest }) ∧
    ((opField w).toNat ≤ 6 → (∀ r ∈ opcodeRows, ¬ r.spells w) →
      step s = s.edge { s.raise .reservedField with cmdIn := rest }) ∧
    (w = 0x50000000#32 → s.busy = true → step s = s.edge s) ∧
    (w = 0x50000000#32 → s.busy = false → s.sv ≠ 0b1111#4 →
      step s = s.edge { s.raise .packIncomplete with cmdIn := rest }) ∧
    (∀ i, decode w = .command i → (i = .pack → s.busy = false ∧ s.sv = 0b1111#4) →
      ∃ t, exec i s = .next t ∧ step s = s.edge { recordRead i t with cmdIn := rest }) ∧
    (s.err = true → ∀ c, s.raise c = s)

/-- R105: a PACK presented while a frame is sent is not accepted: the word and all behind it stay, no error is recorded
and nothing but the transfer happens; the transfer of byte 9 lifts the hold, and so does a reset. -/
def Obligations.HeldPackWaitsAndChangesNothing : Prop :=
  ∀ (s t : State) (rest : List (Option Word)), s.busy = true → s.cmdIn = some 0x50000000#32 :: rest →
    step s = .next t →
    s.cmdReady 0x50000000#32 = false ∧
    (s.rst = false →
      t.cmdIn = s.cmdIn ∧ t.err = s.err ∧ t.errCause = s.errCause ∧ t.crcAcc = s.crcAcc ∧ t.smp = s.smp ∧
      t.sv = s.sv ∧ t.rdata = s.rdata ∧ t.frm = s.frm ∧ t.rdataOut = s.rdataOut ∧
      (t.busy = false ↔ s.txReady = true ∧ s.txIdx = 9#4)) ∧
    (s.rst = true → t.busy = false)

/-- R101: an illegal word, or a PACK with samples missing, records its cause if none is recorded since reset, and has no
other effect; it leaves the stream, which goes on; later errors keep the first cause; `err_o` shows `err` from the next
cycle on; only reset clears `err`. -/
def Obligations.IllegalCommandRecordsTheFirstCauseOnly : Prop :=
  (∀ (s : State) (c : Cause), (s.err = true → s.raise c = s) ∧
    (s.err = false → s.raise c = { s with err := true, errCause := causeCode c })) ∧
  (∀ (s : State) (w : Word) (c : Cause) (rest : List (Option Word)), s.running → s.cmdIn = some w :: rest →
    (decode w = .illegal c ∨ (decode w = .command .pack ∧ s.busy = false ∧ s.sv ≠ 0b1111#4 ∧ c = .packIncomplete)) →
    s.cmdReady w = true ∧ step s = s.edge { s.raise c with cmdIn := rest } ∧
    (∀ t, step s = .next t → t.cmdIn = rest ∧ t.errO = true ∧
      t.errCause = if s.err then s.errCause else causeCode c)) ∧
  (∀ s t : State, step s = .next t → (s.rst = false → s.err = true → t.err = true) ∧ (s.rst = true → t.err = false))

/-- R16 and R17: `err` and `err_cause` change only where the first IllegalCommand since reset is accepted, which sets `err`
and records its code (R100: 1, 2, 3); once set they stay until reset; reset clears them; `err_o` shows `err`. -/
def Obligations.ErrorStateIsStickyUntilReset : Prop :=
  (∀ s t : State, step s = .next t → s.rst = false →
    (s.err = true → t.err = true ∧ t.errCause = s.errCause) ∧
    (s.err = false → t.err = false → t.errCause = s.errCause) ∧
    (s.err = false → t.err = true → ∃ w, s.presented = some w ∧
      ((decode w = .illegal .illegalOpcode ∧ t.errCause = 1#2) ∨ (decode w = .illegal .reservedField ∧ t.errCause = 2#2) ∨
       (decode w = .command .pack ∧ s.busy = false ∧ s.sv ≠ 0b1111#4 ∧ t.errCause = 3#2)))) ∧
  (∀ (s t : State) (w : Word), step s = .next t → s.rst = false → s.presented = some w →
    ((∃ c, decode w = .illegal c) ∨ (decode w = .command .pack ∧ s.busy = false ∧ s.sv ≠ 0b1111#4)) → t.err = true) ∧
  (∀ s t : State, step s = .next t → s.rst = true → t.err = false ∧ t.errCause = 0#2) ∧
  (∀ s : State, s.errO = s.err) ∧
  State.reset.err = false ∧ State.reset.errCause = 0#2

/-- R39: a cycle without reset, with no command presented and no byte transferred, changes nothing of the block. -/
def Obligations.IdleCycleChangesNothing : Prop :=
  ∀ s : State, s.running → s.presented = none → s.transfers = false →
    step s = .next { s with
      cmdIn := s.cmdIn.tail, txReadyIn := s.txReadyIn.tail, rstIn := s.rstIn.tail, cycle := s.cycle + 1 }

/-! ## The tx transfer -/

/-- R83: a transfer emits the byte at `tx_idx` and moves `tx_idx` on, or ends the frame after byte 9, and writes nothing
else; without one nothing is emitted; none happens while `busy` is 0 or in a reset cycle. That a cycle which transfers a
byte and has a next state had `tx_idx` in 0..9 and a value in `frm[tx_idx]`, in states that no run reaches too, is the
model's reading: the transfer faults otherwise (log entries 10 and 2). -/
def Obligations.TxTransferEmitsOneByteAndMovesOn : Prop :=
  (∀ (s : State) (b : Byte), s.running → s.cmdIn = [] → s.busy = true → s.txReady = true → s.txIdx.toNat ≤ 9 →
    Memory.read s.frm s.txIdx.toNat = some b →
    step s = .next { s with
      txOut := s.txOut ++ [b], busy := decide (s.txIdx ≠ 9#4), txIdx := if s.txIdx = 9#4 then 0#4 else s.txIdx + 1#4,
      txReadyIn := s.txReadyIn.tail, rstIn := s.rstIn.tail, cycle := s.cycle + 1 }) ∧
  (∀ s t : State, step s = .next t → s.rst = false → s.busy = true → s.txReady = true →
    t.frm = s.frm ∧ s.txIdx.toNat ≤ 9 ∧
    (∃ b, Memory.read s.frm s.txIdx.toNat = some b ∧ t.txOut = s.txOut ++ [b]) ∧
    t.busy = decide (s.txIdx ≠ 9#4) ∧ t.txIdx = if s.txIdx = 9#4 then 0#4 else s.txIdx + 1#4) ∧
  (∀ s t : State, step s = .next t → s.busy = false ∨ s.rst = true ∨ s.txReady = false → t.txOut = s.txOut) ∧
  (∀ s t : State, step s = .next t → s.rst = false → s.busy = true → s.txReady = false →
    t.frm = s.frm ∧ t.busy = true ∧ t.txIdx = s.txIdx)

/-- R84 (an inference of the spec), the frame output law: from the cycle that accepts a PACK on, whatever the issuer
presents, as long as no reset comes and the sink has accepted `k ≤ 10` times, the sink has received exactly the first `k`
bytes of the frame of the samples packed, in order. -/
def Obligations.SinkReceivesTheFrameInOrder : Prop :=
  ∀ (s : State) (rest : List (Option Word)) (n : Nat),
    s.running → s.busy = false → s.sv = 0b1111#4 → s.cmdIn = some 0x50000000#32 :: rest →
    s.quietFor (n + 1) → n + 1 ≤ s.txReadyIn.length →
    ((s.txReadyIn.tail.take n).count true) ≤ 10 →
    ∃ t, runFor (n + 1) s = .next t ∧
      t.txOut = s.txOut ++
        (frame (s.sample 0#2) (s.sample 1#2) (s.sample 2#2) (s.sample 3#2)).toList.take
          ((s.txReadyIn.tail.take n).count true)

/-- R127 and the corner of R81: with a sink that stays ready, a frame in flight from byte 0 leaves in ten consecutive
cycles, during which a PACK behind it is held, and in the eleventh cycle that PACK is accepted. -/
def Obligations.HeldPackIsAcceptedAfterTenTransfers : Prop :=
  ∀ (s : State) (f : Vector Byte 10) (rest : List (Option Word)),
    s.running → s.busy = true → s.txIdx = 0#4 → Memory.holds s.frm f → s.cmdIn = some 0x50000000#32 :: rest →
    s.quietFor 11 → s.txReadyIn.take 10 = List.replicate 10 true →
    (∀ n < 10, ∃ t, runFor n s = .next t ∧ t.busy = true ∧ t.cmdIn = s.cmdIn ∧ t.cmdReady 0x50000000#32 = false) ∧
    (∃ t, runFor 10 s = .next t ∧ t.busy = false ∧ t.cmdIn = s.cmdIn ∧ t.cmdReady 0x50000000#32 = true ∧
      t.txOut = s.txOut ++ f.toList) ∧
    (∃ u, runFor 11 s = .next u ∧ u.cmdIn = rest)

/-- R106: while the sink does not accept, a frame in flight stays where it is, however many cycles pass; no byte is
emitted, a held PACK stays presented, and the run is not finished. -/
def Obligations.UnreadySinkLeavesTheFrameStuck : Prop :=
  ∀ (s : State) (n : Nat), s.resetDone = true → s.busy = true → s.quietFor n → n ≤ s.txReadyIn.length →
    (∀ r ∈ s.txReadyIn.take n, r = false) →
    ∃ t, runFor n s = .next t ∧ t.busy = true ∧ t.txIdx = s.txIdx ∧ t.frm = s.frm ∧ t.txOut = s.txOut ∧
      ¬ t.finished ∧ (s.presented = some 0x50000000#32 → t.cmdIn = s.cmdIn)

/-! ## The ports -/

/-- R31, R32, R33, R34: `cmd_ready` is low only in reset and for a PACK while a frame is sent; the outputs show it, `rdata`,
`busy` and `err`; a byte is offered just while `busy` without reset, and it is `frm[tx_idx]`; 0x00 otherwise. -/
def Obligations.OutputsShowTheStateBeforeTheEdge : Prop :=
  (∀ (s : State) (w : Word), s.cmdReady w = true ↔ s.rst = false ∧ ¬ (w = 0x50000000#32 ∧ s.busy = true)) ∧
  (∀ (s : State) (w : Word) (o : Outputs), s.outputs w = .ok o →
    o.cmdReady = s.cmdReady w ∧ o.rdata = s.rdata ∧ o.busyO = s.busy ∧ o.errO = s.err ∧ (o.txValid = true ↔ s.busy = true ∧ s.rst = false) ∧
    (o.txValid = true → Memory.read s.frm s.txIdx.toNat = some o.txData) ∧ (o.txValid = false → o.txData = 0x00#8)) ∧
  (∀ s : State, s.resetDone = true → s.Inv → ∀ w, ∃ o, s.outputs w = .ok o)

/-! ## Who writes what -/

/-- R10: without reset the accumulator changes only by an accepted CRC_INIT or CRC_FEED, to the value the command gives. -/
def Obligations.OnlyInitAndFeedWriteTheAccumulator : Prop :=
  ∀ s t : State, step s = .next t → s.rst = false →
    t.crcAcc = (match s.presented with
      | none => s.crcAcc
      | some w =>
        match decode w with
        | .command .crcInit => 0xFFFF#16
        | .command (.crcFeed b) => crcStep8 s.crcAcc b
        | .command _ => s.crcAcc
        | .illegal _ => s.crcAcc)

/-- R18: only CRC_READ and STATUS_READ write `rdata`, and every other command and event leaves it; the port shows it;
reset value 0x0000. (The record of the values it took grows with them.) -/
def Obligations.OnlyReadCommandsWriteRdata : Prop :=
  (∀ s t : State, step s = .next t → s.rst = false →
    (s.presented.map decode = some (.command .crcRead) →
      t.rdata = s.crcAcc ∧ t.rdataOut = s.rdataOut ++ [s.crcAcc]) ∧
    (s.presented.map decode = some (.command .statusRead) →
      t.rdata = s.status ∧ t.rdataOut = s.rdataOut ++ [s.status]) ∧
    (s.presented.map decode ≠ some (.command .crcRead) → s.presented.map decode ≠ some (.command .statusRead) →
      t.rdata = s.rdata ∧ t.rdataOut = s.rdataOut)) ∧
  (∀ s t : State, step s = .next t → s.rst = true → t.rdata = 0x0000#16) ∧
  (∀ (s : State) (w : Word) (o : Outputs), s.outputs w = .ok o → o.rdata = s.rdata) ∧
  State.reset.rdata = 0x0000#16

/-- R12 (and who writes the sample registers, R11): a valid bit is set by LOAD_SAMPLE of its index, all four are cleared
by an accepted PACK, which starts a frame only with all four set, and by reset; nothing else changes one. A sample register is written by
LOAD_SAMPLE of its index alone. -/
def Obligations.ValidBitsFollowLoadsAndPacks : Prop :=
  (∀ (s t : State) (i : BitVec 2), step s = .next t → s.rst = false →
    (∀ v, s.presented.map decode = some (.command (.loadSample i v)) →
      t.sampleValid i = true ∧ t.sample i = v) ∧
    ((∀ v, s.presented.map decode ≠ some (.command (.loadSample i v))) →
      t.sample i = s.sample i ∧
      t.sampleValid i = if s.presented.map decode = some (.command .pack) ∧ s.busy = false ∧ s.sv = 0b1111#4
        then false else s.sampleValid i)) ∧
  (∀ s t : State, step s = .next t → s.busy = false → t.busy = true →
    s.presented.map decode = some (.command .pack) ∧ s.sv = 0b1111#4) ∧
  (∀ s t : State, step s = .next t → s.rst = true → t.sv = 0b0000#4) ∧
  (∀ s : State, s.sv = 0b1111#4 ↔ ∀ i, s.sampleValid i = true) ∧
  State.reset.sv = 0b0000#4

/-- R13 and R22 item 4: without reset the frame buffer changes only by an accepted PACK, which stores the whole frame of
the samples; so while `busy` is 1 no command, no error and no transfer changes a byte of it. -/
def Obligations.OnlyAnAcceptedPackWritesTheFrame : Prop :=
  ∀ s t : State, step s = .next t → s.rst = false →
    (s.busy = true → t.frm = s.frm) ∧
    (s.presented.map decode = some (.command .pack) → s.busy = false → s.sv = 0b1111#4 →
      Memory.holds t.frm (frame (s.sample 0#2) (s.sample 1#2) (s.sample 2#2) (s.sample 3#2))) ∧
    (¬ (s.presented.map decode = some (.command .pack) ∧ s.busy = false ∧ s.sv = 0b1111#4) → t.frm = s.frm)

/-! ## Reset and stops -/

/-- R120: what a cycle with `rst` high leaves, whatever was presented or in flight; no command is accepted and no byte
offered in it, and the command presented has no effect: with another, the next state differs at most in what the issuer
presents next; before the first reset cycle any look at the outputs faults; the state after reset. -/
def Obligations.ResetCycleGivesTheResetValues : Prop :=
  (∀ s : State, s.rst = true →
    (∀ w, s.cmdReady w = false) ∧ s.txValid = false ∧
    ∃ t, step s = .next t ∧ t.crcAcc = 0xFFFF#16 ∧ t.sv = 0b0000#4 ∧ (∀ k, Memory.read t.frm k = none) ∧
      t.busy = false ∧ t.txIdx = 0#4 ∧ t.err = false ∧ t.errCause = 0#2 ∧ t.rdata = 0x0000#16 ∧ t.resetDone = true) ∧
  (∀ (s : State) (ps qs : List (Option Word)), s.rst = true →
    ∃ t u, step { s with cmdIn := ps } = .next t ∧ step { s with cmdIn := qs } = .next u ∧
      t = { u with cmdIn := t.cmdIn }) ∧
  (∀ (s : State) (w : Word), s.resetDone = false → s.rst = false → s.outputs w = .error .observedBeforeReset) ∧
  (State.reset.crcAcc = 0xFFFF#16 ∧ State.reset.sv = 0b0000#4 ∧ (∀ k, Memory.read State.reset.frm k = none) ∧
    State.reset.busy = false ∧ State.reset.txIdx = 0#4 ∧ State.reset.err = false ∧ State.reset.errCause = 0#2 ∧
    State.reset.rdata = 0x0000#16 ∧ State.reset.resetDone = true)

/-- The model's choices: what the issuer presents in a reset cycle, a word or none, leaves the list without effect, so that
any two presentations give the same next state (log entry 6); and a look at the outputs faults until the first reset edge,
in the first reset cycle too (log entry 7). -/
def Obligations.PresentationInAResetCycleLeaves : Prop :=
  (∀ (s : State) (p q : Option Word) (rest : List (Option Word)), s.rst = true →
    step { s with cmdIn := p :: rest } = step { s with cmdIn := q :: rest } ∧
    ∃ t, step { s with cmdIn := p :: rest } = .next t ∧ t.cmdIn = rest) ∧
  (∀ (s : State) (w : Word), s.resetDone = false → s.outputs w = .error .observedBeforeReset)

/-- R121 (an inference of the spec): a reset while a frame is sent abandons it: what was sent stays sent, nothing more is
sent in that cycle; a PACK presented again after it is accepted and raises PACK_INCOMPLETE. That the word presented in
the reset cycle leaves the stream is the model's choice (log entry 6). -/
def Obligations.ResetAbandonsTheFrameInFlight : Prop :=
  ∀ (s : State) (rest : List (Option Word)), s.rst = true → s.busy = true → s.quietAfterReset →
    s.cmdIn = some 0x50000000#32 :: some 0x50000000#32 :: rest →
    ∃ t u, step s = .next t ∧ t.txOut = s.txOut ∧ t.busy = false ∧ t.resetSeen = true ∧
      step t = .next u ∧ u.txOut = s.txOut ∧ u.cmdIn = rest ∧ u.err = true ∧ u.errCause = 3#2

/-- A cycle never ends in a refusal; from a state that meets the invariants of R22 it has a next state in a reset cycle and
in every cycle after the first reset; before it, a cycle without reset faults (log entry 7: the model's reading of R120's
fault on observation). -/
def Obligations.StepStopsOnlyBeforeTheFirstReset : Prop :=
  (∀ s : State, s.Inv → s.resetDone = true → ∃ t, step s = .next t) ∧
  (∀ s : State, s.rst = true → ∃ t, step s = .next t) ∧
  (∀ s : State, s.resetDone = false → s.rst = false → step s = .fault .observedBeforeReset) ∧
  (∀ (s : State) (r : Refusal), step s ≠ .refused r)

/-! ## Invariants -/

/-- The state after reset meets the invariants: those of R22 (an inference of the spec), with the canonical form of the
frame buffer, and that what has been sent is whole frames (R2, R84). -/
def Obligations.ResetMeetsTheInvariants : Prop :=
  State.reset.Inv ∧ State.reset.sentWholeFrames

/-- R22 items 1, 2, 3 and 5 (an inference of the spec), with the canonical form of the frame buffer: every step keeps
them. -/
def Obligations.StepKeepsTheStateInvariants : Prop :=
  ∀ s t : State, s.Inv → step s = .next t → t.Inv

/-- R2 and R84: what has been sent since the run began is whole frames and the part already sent of the one in flight;
every step keeps that, so a finished run (R126) has sent whole frames and nothing else. -/
def Obligations.StepKeepsWholeFramesSent : Prop :=
  (∀ s t : State, s.sentWholeFrames → step s = .next t → t.sentWholeFrames) ∧
  (∀ s : State, s.sentWholeFrames → s.finished → ∃ samples, s.observation.sent = wholeFrames samples)

/-! ## What cannot be observed -/

/-- R11 and R13 (inferences of the spec): a sample register whose valid bit is 0, and the frame buffer while no frame is
sent, cannot be observed: two states that differ only there show the same outputs and step to states that again differ
only there. So nothing rests on the value the model gives the sample registers at reset (log entry 1). -/
def Obligations.InvalidSamplesAndIdleFrameAreNeverSeen : Prop :=
  ∀ s t : State, s.sameSeen t → Memory.wf s.frm = true → Memory.wf t.frm = true →
    (∀ w, s.outputs w = t.outputs w) ∧
    (∀ s', step s = .next s' → ∃ t', step t = .next t' ∧ s'.sameSeen t' ∧
      Memory.wf s'.frm = true ∧ Memory.wf t'.frm = true)
end

