-- ==== Sys2Proof/Laws/Crc.lean ====
section
/-!
SUPPORT. The CRC's arithmetic (spec/40_crc.md R73 to R75).
-/

namespace Sys2Proof.Machine

/-- An iteration with the low bit clear only shifts. -/
theorem crcBit_of_even {a : Half} (h : a.getLsbD 0 = false) : crcBit a = a >>> 1 := by rw [crcBit, h, if_neg Bool.false_ne_true]

@[simp] theorem crcBits_zero (n : Nat) : crcBits n 0#16 = 0#16 := by
  induction n with
  | zero => rfl
  | succ n ih => simpa [crcBits, crcBit] using ih

/-- Iterations over clear low bits only shift. -/
theorem crcBits_of_clear (n : Nat) {a : Half} (h : ∀ k < n, a.getLsbD k = false) : crcBits n a = a >>> n := by
  induction n generalizing a with
  | zero => simp [crcBits]
  | succ n ih =>
    rw [crcBits, crcBit_of_even (h 0 (Nat.succ_pos n)), ih, ← BitVec.shiftRight_add, Nat.add_comm]
    intro k hk
    rw [BitVec.getLsbD_ushiftRight]
    exact h (1 + k) (by omega)

/-- The fold of a sequence goes on from the fold of its first part (R76 item 3). -/
theorem crcFrom_append (a : Half) (b c : List Byte) : crcFrom a (b ++ c) = crcFrom (crcFrom a b) c :=
  List.foldl_append

@[simp] theorem crcFrom_nil (a : Half) : crcFrom a [] = a := rfl

@[simp] theorem crcFrom_cons (a : Half) (b : Byte) (bs : List Byte) :
    crcFrom a (b :: bs) = crcFrom (crcStep8 a b) bs := rfl

end Sys2Proof.Machine
end

