-- ==== Sys2Proof/Laws/Decode.lean ====
section
/-!
SUPPORT. A word is its fields side by side (spec/30_encoding.md R50), and the fields of fields put side by side are those.
-/

namespace Sys2Proof

/-- A word is its opcode and the bits below it. -/
theorem word_eq_fields (w : Word) : opField w ++ belowOp w = w := by
  ext i hi
  simp only [opField, belowOp, BitVec.getElem_append, BitVec.getElem_extractLsb']
  split
  · rw [Nat.zero_add, BitVec.getLsbD_eq_getElem]
  · rw [← BitVec.getLsbD_eq_getElem]; congr 1; omega

theorem belowOp_eq_feed (w : Word) : feedReserved w ++ byteField w = belowOp w := by
  ext i hi
  simp only [feedReserved, byteField, belowOp, BitVec.getElem_append, BitVec.getElem_extractLsb']
  split
  · simp
  · congr 1; omega

theorem belowOp_eq_load (w : Word) : rsvField w ++ (idxField w ++ dataField w) = belowOp w := by
  ext i hi
  simp only [rsvField, idxField, dataField, belowOp, BitVec.getElem_append, BitVec.getElem_extractLsb']
  split
  · split
    · simp
    · congr 1; omega
  · congr 1; omega

/-- Words with the same opcode and the same bits below it are the same word. -/
theorem word_ext {w v : Word} (ho : opField w = opField v) (hb : belowOp w = belowOp v) : w = v := by
  rw [← word_eq_fields w, ← word_eq_fields v, ho, hb]

@[simp] theorem opField_append (o : BitVec 4) (r : BitVec 28) : opField (o ++ r) = o := by
  ext i hi
  simp only [opField, BitVec.getElem_extractLsb', BitVec.getLsbD_append]
  rw [if_neg (by omega), show 28 + i - 28 = i by omega, BitVec.getLsbD_eq_getElem]

@[simp] theorem belowOp_append (o : BitVec 4) (r : BitVec 28) : belowOp (o ++ r) = r := by
  ext i hi
  simp only [belowOp, BitVec.getElem_extractLsb', BitVec.getLsbD_append]
  rw [if_pos (by omega), Nat.zero_add, BitVec.getLsbD_eq_getElem]

/-- Bit vectors put side by side are equal only piece by piece. -/
theorem append_pieces {n m : Nat} {a c : BitVec n} {b d : BitVec m} (h : a ++ b = c ++ d) : a = c ∧ b = d := by
  constructor
  · ext i hi
    have := congrArg (fun x : BitVec (n + m) => x.getLsbD (m + i)) h
    simpa [BitVec.getLsbD_append, hi] using this
  · ext i hi
    have := congrArg (fun x : BitVec (n + m) => x.getLsbD i) h
    simpa [BitVec.getLsbD_append, hi] using this

/-- The fields of a CRC_FEED word (R50). -/
theorem feed_fields (o : BitVec 4) (r : BitVec 20) (b : Byte) :
    feedReserved (o ++ (r ++ b)) = r ∧ byteField (o ++ (r ++ b)) = b := by
  have h := belowOp_eq_feed (o ++ (r ++ b))
  rw [belowOp_append] at h
  exact append_pieces h

/-- The fields of a LOAD_SAMPLE word (R50). -/
theorem load_fields (o : BitVec 4) (r : BitVec 10) (i : BitVec 2) (v : Half) :
    rsvField (o ++ (r ++ (i ++ v))) = r ∧ idxField (o ++ (r ++ (i ++ v))) = i ∧
      dataField (o ++ (r ++ (i ++ v))) = v := by
  have h := belowOp_eq_load (o ++ (r ++ (i ++ v)))
  rw [belowOp_append] at h
  exact ⟨(append_pieces h).1, append_pieces (append_pieces h).2⟩

end Sys2Proof
end

