-- ==== Sys2Proof/Laws/State.lean ====
section
/-!
SUPPORT. What each named update of the state leaves in each field: one lemma per field per update.
-/

namespace Sys2Proof.Machine

/-! ## State.writeCrc -/

@[simp] theorem State.writeCrc_crcAcc (s : State) (v : Half) : (s.writeCrc v).crcAcc = v := rfl
@[simp] theorem State.writeCrc_smp (s : State) (v : Half) : (s.writeCrc v).smp = s.smp := rfl
@[simp] theorem State.writeCrc_sv (s : State) (v : Half) : (s.writeCrc v).sv = s.sv := rfl
@[simp] theorem State.writeCrc_frm (s : State) (v : Half) : (s.writeCrc v).frm = s.frm := rfl
@[simp] theorem State.writeCrc_busy (s : State) (v : Half) : (s.writeCrc v).busy = s.busy := rfl
@[simp] theorem State.writeCrc_txIdx (s : State) (v : Half) : (s.writeCrc v).txIdx = s.txIdx := rfl
@[simp] theorem State.writeCrc_err (s : State) (v : Half) : (s.writeCrc v).err = s.err := rfl
@[simp] theorem State.writeCrc_errCause (s : State) (v : Half) : (s.writeCrc v).errCause = s.errCause := rfl
@[simp] theorem State.writeCrc_rdata (s : State) (v : Half) : (s.writeCrc v).rdata = s.rdata := rfl
@[simp] theorem State.writeCrc_resetDone (s : State) (v : Half) : (s.writeCrc v).resetDone = s.resetDone := rfl
@[simp] theorem State.writeCrc_cmdIn (s : State) (v : Half) : (s.writeCrc v).cmdIn = s.cmdIn := rfl
@[simp] theorem State.writeCrc_txReadyIn (s : State) (v : Half) : (s.writeCrc v).txReadyIn = s.txReadyIn := rfl
@[simp] theorem State.writeCrc_rstIn (s : State) (v : Half) : (s.writeCrc v).rstIn = s.rstIn := rfl
@[simp] theorem State.writeCrc_cycle (s : State) (v : Half) : (s.writeCrc v).cycle = s.cycle := rfl
@[simp] theorem State.writeCrc_txOut (s : State) (v : Half) : (s.writeCrc v).txOut = s.txOut := rfl
@[simp] theorem State.writeCrc_rdataOut (s : State) (v : Half) : (s.writeCrc v).rdataOut = s.rdataOut := rfl
@[simp] theorem State.writeCrc_resetSeen (s : State) (v : Half) : (s.writeCrc v).resetSeen = s.resetSeen := rfl

/-! ## State.writeRdata -/

@[simp] theorem State.writeRdata_crcAcc (s : State) (v : Half) : (s.writeRdata v).crcAcc = s.crcAcc := rfl
@[simp] theorem State.writeRdata_smp (s : State) (v : Half) : (s.writeRdata v).smp = s.smp := rfl
@[simp] theorem State.writeRdata_sv (s : State) (v : Half) : (s.writeRdata v).sv = s.sv := rfl
@[simp] theorem State.writeRdata_frm (s : State) (v : Half) : (s.writeRdata v).frm = s.frm := rfl
@[simp] theorem State.writeRdata_busy (s : State) (v : Half) : (s.writeRdata v).busy = s.busy := rfl
@[simp] theorem State.writeRdata_txIdx (s : State) (v : Half) : (s.writeRdata v).txIdx = s.txIdx := rfl
@[simp] theorem State.writeRdata_err (s : State) (v : Half) : (s.writeRdata v).err = s.err := rfl
@[simp] theorem State.writeRdata_errCause (s : State) (v : Half) : (s.writeRdata v).errCause = s.errCause := rfl
@[simp] theorem State.writeRdata_rdata (s : State) (v : Half) : (s.writeRdata v).rdata = v := rfl
@[simp] theorem State.writeRdata_resetDone (s : State) (v : Half) : (s.writeRdata v).resetDone = s.resetDone := rfl
@[simp] theorem State.writeRdata_cmdIn (s : State) (v : Half) : (s.writeRdata v).cmdIn = s.cmdIn := rfl
@[simp] theorem State.writeRdata_txReadyIn (s : State) (v : Half) : (s.writeRdata v).txReadyIn = s.txReadyIn := rfl
@[simp] theorem State.writeRdata_rstIn (s : State) (v : Half) : (s.writeRdata v).rstIn = s.rstIn := rfl
@[simp] theorem State.writeRdata_cycle (s : State) (v : Half) : (s.writeRdata v).cycle = s.cycle := rfl
@[simp] theorem State.writeRdata_txOut (s : State) (v : Half) : (s.writeRdata v).txOut = s.txOut := rfl
@[simp] theorem State.writeRdata_rdataOut (s : State) (v : Half) : (s.writeRdata v).rdataOut = s.rdataOut := rfl
@[simp] theorem State.writeRdata_resetSeen (s : State) (v : Half) : (s.writeRdata v).resetSeen = s.resetSeen := rfl

/-! ## State.writeSample -/

@[simp] theorem State.writeSample_crcAcc (s : State) (i : BitVec 2) (v : Half) : (s.writeSample i v).crcAcc = s.crcAcc := rfl
@[simp] theorem State.writeSample_smp (s : State) (i : BitVec 2) (v : Half) : (s.writeSample i v).smp = setSample s.smp i v := rfl
@[simp] theorem State.writeSample_sv (s : State) (i : BitVec 2) (v : Half) : (s.writeSample i v).sv = setValid s.sv i := rfl
@[simp] theorem State.writeSample_frm (s : State) (i : BitVec 2) (v : Half) : (s.writeSample i v).frm = s.frm := rfl
@[simp] theorem State.writeSample_busy (s : State) (i : BitVec 2) (v : Half) : (s.writeSample i v).busy = s.busy := rfl
@[simp] theorem State.writeSample_txIdx (s : State) (i : BitVec 2) (v : Half) : (s.writeSample i v).txIdx = s.txIdx := rfl
@[simp] theorem State.writeSample_err (s : State) (i : BitVec 2) (v : Half) : (s.writeSample i v).err = s.err := rfl
@[simp] theorem State.writeSample_errCause (s : State) (i : BitVec 2) (v : Half) : (s.writeSample i v).errCause = s.errCause := rfl
@[simp] theorem State.writeSample_rdata (s : State) (i : BitVec 2) (v : Half) : (s.writeSample i v).rdata = s.rdata := rfl
@[simp] theorem State.writeSample_resetDone (s : State) (i : BitVec 2) (v : Half) : (s.writeSample i v).resetDone = s.resetDone := rfl
@[simp] theorem State.writeSample_cmdIn (s : State) (i : BitVec 2) (v : Half) : (s.writeSample i v).cmdIn = s.cmdIn := rfl
@[simp] theorem State.writeSample_txReadyIn (s : State) (i : BitVec 2) (v : Half) : (s.writeSample i v).txReadyIn = s.txReadyIn := rfl
@[simp] theorem State.writeSample_rstIn (s : State) (i : BitVec 2) (v : Half) : (s.writeSample i v).rstIn = s.rstIn := rfl
@[simp] theorem State.writeSample_cycle (s : State) (i : BitVec 2) (v : Half) : (s.writeSample i v).cycle = s.cycle := rfl
@[simp] theorem State.writeSample_txOut (s : State) (i : BitVec 2) (v : Half) : (s.writeSample i v).txOut = s.txOut := rfl
@[simp] theorem State.writeSample_rdataOut (s : State) (i : BitVec 2) (v : Half) : (s.writeSample i v).rdataOut = s.rdataOut := rfl
@[simp] theorem State.writeSample_resetSeen (s : State) (i : BitVec 2) (v : Half) : (s.writeSample i v).resetSeen = s.resetSeen := rfl

/-! ## State.startFrame -/

@[simp] theorem State.startFrame_crcAcc (s : State) (f : Vector Byte 10) : (s.startFrame f).crcAcc = s.crcAcc := rfl
@[simp] theorem State.startFrame_smp (s : State) (f : Vector Byte 10) : (s.startFrame f).smp = s.smp := rfl
@[simp] theorem State.startFrame_sv (s : State) (f : Vector Byte 10) : (s.startFrame f).sv = 0#4 := rfl
@[simp] theorem State.startFrame_frm (s : State) (f : Vector Byte 10) : (s.startFrame f).frm = Memory.writeFrame s.frm f := rfl
@[simp] theorem State.startFrame_busy (s : State) (f : Vector Byte 10) : (s.startFrame f).busy = true := rfl
@[simp] theorem State.startFrame_txIdx (s : State) (f : Vector Byte 10) : (s.startFrame f).txIdx = 0#4 := rfl
@[simp] theorem State.startFrame_err (s : State) (f : Vector Byte 10) : (s.startFrame f).err = s.err := rfl
@[simp] theorem State.startFrame_errCause (s : State) (f : Vector Byte 10) : (s.startFrame f).errCause = s.errCause := rfl
@[simp] theorem State.startFrame_rdata (s : State) (f : Vector Byte 10) : (s.startFrame f).rdata = s.rdata := rfl
@[simp] theorem State.startFrame_resetDone (s : State) (f : Vector Byte 10) : (s.startFrame f).resetDone = s.resetDone := rfl
@[simp] theorem State.startFrame_cmdIn (s : State) (f : Vector Byte 10) : (s.startFrame f).cmdIn = s.cmdIn := rfl
@[simp] theorem State.startFrame_txReadyIn (s : State) (f : Vector Byte 10) : (s.startFrame f).txReadyIn = s.txReadyIn := rfl
@[simp] theorem State.startFrame_rstIn (s : State) (f : Vector Byte 10) : (s.startFrame f).rstIn = s.rstIn := rfl
@[simp] theorem State.startFrame_cycle (s : State) (f : Vector Byte 10) : (s.startFrame f).cycle = s.cycle := rfl
@[simp] theorem State.startFrame_txOut (s : State) (f : Vector Byte 10) : (s.startFrame f).txOut = s.txOut := rfl
@[simp] theorem State.startFrame_rdataOut (s : State) (f : Vector Byte 10) : (s.startFrame f).rdataOut = s.rdataOut := rfl
@[simp] theorem State.startFrame_resetSeen (s : State) (f : Vector Byte 10) : (s.startFrame f).resetSeen = s.resetSeen := rfl

/-! ## State.nextPresentation -/

@[simp] theorem State.nextPresentation_crcAcc (s : State) : (s.nextPresentation).crcAcc = s.crcAcc := rfl
@[simp] theorem State.nextPresentation_smp (s : State) : (s.nextPresentation).smp = s.smp := rfl
@[simp] theorem State.nextPresentation_sv (s : State) : (s.nextPresentation).sv = s.sv := rfl
@[simp] theorem State.nextPresentation_frm (s : State) : (s.nextPresentation).frm = s.frm := rfl
@[simp] theorem State.nextPresentation_busy (s : State) : (s.nextPresentation).busy = s.busy := rfl
@[simp] theorem State.nextPresentation_txIdx (s : State) : (s.nextPresentation).txIdx = s.txIdx := rfl
@[simp] theorem State.nextPresentation_err (s : State) : (s.nextPresentation).err = s.err := rfl
@[simp] theorem State.nextPresentation_errCause (s : State) : (s.nextPresentation).errCause = s.errCause := rfl
@[simp] theorem State.nextPresentation_rdata (s : State) : (s.nextPresentation).rdata = s.rdata := rfl
@[simp] theorem State.nextPresentation_resetDone (s : State) : (s.nextPresentation).resetDone = s.resetDone := rfl
@[simp] theorem State.nextPresentation_cmdIn (s : State) : (s.nextPresentation).cmdIn = s.cmdIn.tail := rfl
@[simp] theorem State.nextPresentation_txReadyIn (s : State) : (s.nextPresentation).txReadyIn = s.txReadyIn := rfl
@[simp] theorem State.nextPresentation_rstIn (s : State) : (s.nextPresentation).rstIn = s.rstIn := rfl
@[simp] theorem State.nextPresentation_cycle (s : State) : (s.nextPresentation).cycle = s.cycle := rfl
@[simp] theorem State.nextPresentation_txOut (s : State) : (s.nextPresentation).txOut = s.txOut := rfl
@[simp] theorem State.nextPresentation_rdataOut (s : State) : (s.nextPresentation).rdataOut = s.rdataOut := rfl
@[simp] theorem State.nextPresentation_resetSeen (s : State) : (s.nextPresentation).resetSeen = s.resetSeen := rfl

/-! ## State.tick -/

@[simp] theorem State.tick_crcAcc (s : State) : (s.tick).crcAcc = s.crcAcc := rfl
@[simp] theorem State.tick_smp (s : State) : (s.tick).smp = s.smp := rfl
@[simp] theorem State.tick_sv (s : State) : (s.tick).sv = s.sv := rfl
@[simp] theorem State.tick_frm (s : State) : (s.tick).frm = s.frm := rfl
@[simp] theorem State.tick_busy (s : State) : (s.tick).busy = s.busy := rfl
@[simp] theorem State.tick_txIdx (s : State) : (s.tick).txIdx = s.txIdx := rfl
@[simp] theorem State.tick_err (s : State) : (s.tick).err = s.err := rfl
@[simp] theorem State.tick_errCause (s : State) : (s.tick).errCause = s.errCause := rfl
@[simp] theorem State.tick_rdata (s : State) : (s.tick).rdata = s.rdata := rfl
@[simp] theorem State.tick_resetDone (s : State) : (s.tick).resetDone = s.resetDone := rfl
@[simp] theorem State.tick_cmdIn (s : State) : (s.tick).cmdIn = s.cmdIn := rfl
@[simp] theorem State.tick_txReadyIn (s : State) : (s.tick).txReadyIn = s.txReadyIn.tail := rfl
@[simp] theorem State.tick_rstIn (s : State) : (s.tick).rstIn = s.rstIn.tail := rfl
@[simp] theorem State.tick_cycle (s : State) : (s.tick).cycle = s.cycle + 1 := rfl
@[simp] theorem State.tick_txOut (s : State) : (s.tick).txOut = s.txOut := rfl
@[simp] theorem State.tick_rdataOut (s : State) : (s.tick).rdataOut = s.rdataOut := rfl
@[simp] theorem State.tick_resetSeen (s : State) : (s.tick).resetSeen = s.resetSeen := rfl

/-! ## State.resetCycle -/

@[simp] theorem State.resetCycle_crcAcc (s : State) : s.resetCycle.crcAcc = State.reset.crcAcc := rfl
@[simp] theorem State.resetCycle_smp (s : State) : s.resetCycle.smp = State.reset.smp := rfl
@[simp] theorem State.resetCycle_sv (s : State) : s.resetCycle.sv = State.reset.sv := rfl
@[simp] theorem State.resetCycle_frm (s : State) : s.resetCycle.frm = State.reset.frm := rfl
@[simp] theorem State.resetCycle_busy (s : State) : s.resetCycle.busy = State.reset.busy := rfl
@[simp] theorem State.resetCycle_txIdx (s : State) : s.resetCycle.txIdx = State.reset.txIdx := rfl
@[simp] theorem State.resetCycle_err (s : State) : s.resetCycle.err = State.reset.err := rfl
@[simp] theorem State.resetCycle_errCause (s : State) : s.resetCycle.errCause = State.reset.errCause := rfl
@[simp] theorem State.resetCycle_rdata (s : State) : s.resetCycle.rdata = State.reset.rdata := rfl
@[simp] theorem State.resetCycle_resetDone (s : State) : s.resetCycle.resetDone = State.reset.resetDone := rfl
@[simp] theorem State.resetCycle_cmdIn (s : State) : s.resetCycle.cmdIn = s.cmdIn.tail := rfl
@[simp] theorem State.resetCycle_txReadyIn (s : State) : s.resetCycle.txReadyIn = s.txReadyIn.tail := rfl
@[simp] theorem State.resetCycle_rstIn (s : State) : s.resetCycle.rstIn = s.rstIn.tail := rfl
@[simp] theorem State.resetCycle_cycle (s : State) : s.resetCycle.cycle = s.cycle + 1 := rfl
@[simp] theorem State.resetCycle_txOut (s : State) : s.resetCycle.txOut = s.txOut := rfl
@[simp] theorem State.resetCycle_rdataOut (s : State) : s.resetCycle.rdataOut = s.rdataOut := rfl
@[simp] theorem State.resetCycle_resetSeen (s : State) : s.resetCycle.resetSeen = true := rfl

/-! ## State.raise -/

@[simp] theorem State.raise_crcAcc (s : State) (c : Cause) : (s.raise c).crcAcc = s.crcAcc := by
  unfold State.raise; split <;> rfl
@[simp] theorem State.raise_smp (s : State) (c : Cause) : (s.raise c).smp = s.smp := by
  unfold State.raise; split <;> rfl
@[simp] theorem State.raise_sv (s : State) (c : Cause) : (s.raise c).sv = s.sv := by
  unfold State.raise; split <;> rfl
@[simp] theorem State.raise_frm (s : State) (c : Cause) : (s.raise c).frm = s.frm := by
  unfold State.raise; split <;> rfl
@[simp] theorem State.raise_busy (s : State) (c : Cause) : (s.raise c).busy = s.busy := by
  unfold State.raise; split <;> rfl
@[simp] theorem State.raise_txIdx (s : State) (c : Cause) : (s.raise c).txIdx = s.txIdx := by
  unfold State.raise; split <;> rfl
@[simp] theorem State.raise_rdata (s : State) (c : Cause) : (s.raise c).rdata = s.rdata := by
  unfold State.raise; split <;> rfl
@[simp] theorem State.raise_resetDone (s : State) (c : Cause) : (s.raise c).resetDone = s.resetDone := by
  unfold State.raise; split <;> rfl
@[simp] theorem State.raise_cmdIn (s : State) (c : Cause) : (s.raise c).cmdIn = s.cmdIn := by
  unfold State.raise; split <;> rfl
@[simp] theorem State.raise_txReadyIn (s : State) (c : Cause) : (s.raise c).txReadyIn = s.txReadyIn := by
  unfold State.raise; split <;> rfl
@[simp] theorem State.raise_rstIn (s : State) (c : Cause) : (s.raise c).rstIn = s.rstIn := by
  unfold State.raise; split <;> rfl
@[simp] theorem State.raise_cycle (s : State) (c : Cause) : (s.raise c).cycle = s.cycle := by
  unfold State.raise; split <;> rfl
@[simp] theorem State.raise_txOut (s : State) (c : Cause) : (s.raise c).txOut = s.txOut := by
  unfold State.raise; split <;> rfl
@[simp] theorem State.raise_rdataOut (s : State) (c : Cause) : (s.raise c).rdataOut = s.rdataOut := by
  unfold State.raise; split <;> rfl
@[simp] theorem State.raise_resetSeen (s : State) (c : Cause) : (s.raise c).resetSeen = s.resetSeen := by
  unfold State.raise; split <;> rfl

/-! ## State.sendByte -/

@[simp] theorem State.sendByte_crcAcc (s : State) (k : BitVec 4) (b : Byte) : (s.sendByte k b).crcAcc = s.crcAcc := by
  unfold State.sendByte; split <;> rfl
@[simp] theorem State.sendByte_smp (s : State) (k : BitVec 4) (b : Byte) : (s.sendByte k b).smp = s.smp := by
  unfold State.sendByte; split <;> rfl
@[simp] theorem State.sendByte_sv (s : State) (k : BitVec 4) (b : Byte) : (s.sendByte k b).sv = s.sv := by
  unfold State.sendByte; split <;> rfl
@[simp] theorem State.sendByte_frm (s : State) (k : BitVec 4) (b : Byte) : (s.sendByte k b).frm = s.frm := by
  unfold State.sendByte; split <;> rfl
@[simp] theorem State.sendByte_err (s : State) (k : BitVec 4) (b : Byte) : (s.sendByte k b).err = s.err := by
  unfold State.sendByte; split <;> rfl
@[simp] theorem State.sendByte_errCause (s : State) (k : BitVec 4) (b : Byte) : (s.sendByte k b).errCause = s.errCause := by
  unfold State.sendByte; split <;> rfl
@[simp] theorem State.sendByte_rdata (s : State) (k : BitVec 4) (b : Byte) : (s.sendByte k b).rdata = s.rdata := by
  unfold State.sendByte; split <;> rfl
@[simp] theorem State.sendByte_resetDone (s : State) (k : BitVec 4) (b : Byte) : (s.sendByte k b).resetDone = s.resetDone := by
  unfold State.sendByte; split <;> rfl
@[simp] theorem State.sendByte_cmdIn (s : State) (k : BitVec 4) (b : Byte) : (s.sendByte k b).cmdIn = s.cmdIn := by
  unfold State.sendByte; split <;> rfl
@[simp] theorem State.sendByte_txReadyIn (s : State) (k : BitVec 4) (b : Byte) : (s.sendByte k b).txReadyIn = s.txReadyIn := by
  unfold State.sendByte; split <;> rfl
@[simp] theorem State.sendByte_rstIn (s : State) (k : BitVec 4) (b : Byte) : (s.sendByte k b).rstIn = s.rstIn := by
  unfold State.sendByte; split <;> rfl
@[simp] theorem State.sendByte_cycle (s : State) (k : BitVec 4) (b : Byte) : (s.sendByte k b).cycle = s.cycle := by
  unfold State.sendByte; split <;> rfl
@[simp] theorem State.sendByte_rdataOut (s : State) (k : BitVec 4) (b : Byte) : (s.sendByte k b).rdataOut = s.rdataOut := by
  unfold State.sendByte; split <;> rfl
@[simp] theorem State.sendByte_resetSeen (s : State) (k : BitVec 4) (b : Byte) : (s.sendByte k b).resetSeen = s.resetSeen := by
  unfold State.sendByte; split <;> rfl

/-- A raised error is recorded. -/
@[simp] theorem State.raise_err (s : State) (c : Cause) : (s.raise c).err = true := by
  unfold State.raise; split
  · assumption
  · rfl

/-- The first cause is kept. -/
@[simp] theorem State.raise_errCause (s : State) (c : Cause) :
    (s.raise c).errCause = if s.err = true then s.errCause else causeCode c := by
  unfold State.raise; split <;> rfl

@[simp] theorem State.sendByte_txOut (s : State) (k : BitVec 4) (b : Byte) :
    (s.sendByte k b).txOut = s.txOut ++ [b] := by
  unfold State.sendByte; split <;> rfl

@[simp] theorem State.sendByte_txIdx (s : State) (k : BitVec 4) (b : Byte) :
    (s.sendByte k b).txIdx = if k = Config.lastFrameIndex then 0#4 else k + 1#4 := by
  unfold State.sendByte; split <;> rfl

@[simp] theorem State.sendByte_busy (s : State) (k : BitVec 4) (b : Byte) :
    (s.sendByte k b).busy = if k = Config.lastFrameIndex then false else s.busy := by
  unfold State.sendByte; split <;> rfl

/-! ## recordRead -/

@[simp] theorem recordRead_crcAcc (i : Instr) (s : State) : (recordRead i s).crcAcc = s.crcAcc := by
  cases i <;> rfl
@[simp] theorem recordRead_smp (i : Instr) (s : State) : (recordRead i s).smp = s.smp := by
  cases i <;> rfl
@[simp] theorem recordRead_sv (i : Instr) (s : State) : (recordRead i s).sv = s.sv := by
  cases i <;> rfl
@[simp] theorem recordRead_frm (i : Instr) (s : State) : (recordRead i s).frm = s.frm := by
  cases i <;> rfl
@[simp] theorem recordRead_busy (i : Instr) (s : State) : (recordRead i s).busy = s.busy := by
  cases i <;> rfl
@[simp] theorem recordRead_txIdx (i : Instr) (s : State) : (recordRead i s).txIdx = s.txIdx := by
  cases i <;> rfl
@[simp] theorem recordRead_err (i : Instr) (s : State) : (recordRead i s).err = s.err := by
  cases i <;> rfl
@[simp] theorem recordRead_errCause (i : Instr) (s : State) : (recordRead i s).errCause = s.errCause := by
  cases i <;> rfl
@[simp] theorem recordRead_rdata (i : Instr) (s : State) : (recordRead i s).rdata = s.rdata := by
  cases i <;> rfl
@[simp] theorem recordRead_resetDone (i : Instr) (s : State) : (recordRead i s).resetDone = s.resetDone := by
  cases i <;> rfl
@[simp] theorem recordRead_cmdIn (i : Instr) (s : State) : (recordRead i s).cmdIn = s.cmdIn := by
  cases i <;> rfl
@[simp] theorem recordRead_txReadyIn (i : Instr) (s : State) : (recordRead i s).txReadyIn = s.txReadyIn := by
  cases i <;> rfl
@[simp] theorem recordRead_rstIn (i : Instr) (s : State) : (recordRead i s).rstIn = s.rstIn := by
  cases i <;> rfl
@[simp] theorem recordRead_cycle (i : Instr) (s : State) : (recordRead i s).cycle = s.cycle := by
  cases i <;> rfl
@[simp] theorem recordRead_txOut (i : Instr) (s : State) : (recordRead i s).txOut = s.txOut := by
  cases i <;> rfl
@[simp] theorem recordRead_resetSeen (i : Instr) (s : State) : (recordRead i s).resetSeen = s.resetSeen := by
  cases i <;> rfl

end Sys2Proof.Machine
end

