-- ==== Sys2Proof/Laws/Memory.lean ====
section
/-!
SUPPORT. The frame buffer: a read after a write, and the canonical form that every write keeps.
-/

namespace Sys2Proof.Machine

@[simp] theorem Memory.read_nil (k : Nat) : Memory.read [] k = none := rfl

/-- A read after a write at the same index gives the byte written. -/
@[simp] theorem Memory.read_insert_self (m : Memory) (k : Nat) (v : Byte) :
    Memory.read (Memory.insert m k v) k = some v := by
  induction m with
  | nil => simp [Memory.insert, Memory.read]
  | cons c m ih =>
    obtain ⟨a, b⟩ := c
    simp only [Memory.insert]
    split
    · simp [Memory.read]
    · split
      · simp [Memory.read]
      · rename_i h
        simp [Memory.read, Ne.symm h, ih]

/-- A write leaves every other index alone. -/
theorem Memory.read_insert_ne (m : Memory) {j k : Nat} (v : Byte) (h : j ≠ k) :
    Memory.read (Memory.insert m k v) j = Memory.read m j := by
  induction m with
  | nil => simp [Memory.insert, Memory.read, Ne.symm h, Memory.unlisted]
  | cons c m ih =>
    obtain ⟨a, b⟩ := c
    simp only [Memory.insert]
    split
    · simp [Memory.read, Ne.symm h]
    · split
      · rename_i hk
        subst hk
        simp [Memory.read, Ne.symm h]
      · simp [Memory.read, ih]

theorem Memory.mem_insert {m : Memory} {k : Nat} {v : Byte} {c : Host.Cell} (h : c ∈ Memory.insert m k v) :
    c = (k, v) ∨ c ∈ m := by
  induction m with
  | nil => simpa [Memory.insert] using h
  | cons d m ih =>
    obtain ⟨a, b⟩ := d
    simp only [Memory.insert] at h
    split at h
    · simpa using h
    · split at h
      · simp only [List.mem_cons] at h ⊢
        tauto
      · simp only [List.mem_cons] at h ⊢
        rcases h with h | h
        · tauto
        · rcases ih h with h | h <;> tauto

theorem Memory.insert_rising {m : Memory} (k : Nat) (v : Byte) (h : Memory.rising m = true) :
    Memory.rising (Memory.insert m k v) = true := by
  induction m with
  | nil => simp [Memory.insert, Memory.rising]
  | cons d m ih =>
    obtain ⟨a, b⟩ := d
    simp only [Memory.rising, Bool.and_eq_true, List.all_eq_true, decide_eq_true_eq] at h
    simp only [Memory.insert]
    split
    · rename_i hk
      simp only [Memory.rising, Bool.and_eq_true, List.all_eq_true, decide_eq_true_eq]
      refine ⟨fun d hd => ?_, h⟩
      rcases List.mem_cons.1 hd with rfl | hd
      · exact hk
      · exact lt_trans hk (h.1 d hd)
    · split
      · rename_i hk
        subst hk
        simpa only [Memory.rising, Bool.and_eq_true, List.all_eq_true, decide_eq_true_eq] using h
      · rename_i h1 h2
        simp only [Memory.rising, Bool.and_eq_true, List.all_eq_true, decide_eq_true_eq]
        refine ⟨fun d hd => ?_, ih h.2⟩
        rcases Memory.mem_insert hd with rfl | hd
        · exact lt_of_le_of_ne (not_lt.1 h1) (Ne.symm h2)
        · exact h.1 d hd

/-- A write keeps the canonical form. -/
theorem Memory.write_wf {m : Memory} (k : Fin 10) (v : Byte) (h : Memory.wf m = true) :
    Memory.wf (Memory.write m k v) = true := by
  simp only [Memory.wf, Bool.and_eq_true, List.all_eq_true, decide_eq_true_eq] at h ⊢
  refine ⟨Memory.insert_rising _ _ h.1, fun c hc => ?_⟩
  rcases Memory.mem_insert hc with rfl | hc
  · exact k.isLt
  · exact h.2 c hc

theorem Memory.foldl_write_wf (f : Vector Byte 10) (ks : List (Fin 10)) {m : Memory} (h : Memory.wf m = true) :
    Memory.wf (ks.foldl (fun m k => Memory.write m k f[k.val]) m) = true := by
  induction ks generalizing m with
  | nil => exact h
  | cons k ks ih => exact ih (Memory.write_wf k _ h)

/-- Storing a frame keeps the canonical form. -/
theorem Memory.writeFrame_wf {m : Memory} (f : Vector Byte 10) (h : Memory.wf m = true) :
    Memory.wf (Memory.writeFrame m f) = true :=
  Memory.foldl_write_wf f frameIndices h

theorem Memory.read_foldl_write (f : Vector Byte 10) (ks : List (Fin 10)) (m : Memory) (k : Fin 10)
    (h : k ∈ ks ∨ Memory.read m k.val = some f[k.val]) :
    Memory.read (ks.foldl (fun m k => Memory.write m k f[k.val]) m) k.val = some f[k.val] := by
  induction ks generalizing m with
  | nil => simpa using h
  | cons j ks ih =>
    refine ih _ ?_
    by_cases hj : k = j
    · subst hj
      exact .inr (Memory.read_insert_self _ _ _)
    · rcases h with h | h
      · exact .inl ((List.mem_cons.1 h).resolve_left hj)
      · exact .inr ((Memory.read_insert_ne _ _ (fun e => hj (Fin.ext e))).trans h)

/-- After a frame is stored every one of the ten bytes reads as the frame's, whatever the buffer held before. -/
theorem Memory.read_writeFrame (m : Memory) (f : Vector Byte 10) (k : Fin 10) :
    Memory.read (Memory.writeFrame m f) k.val = some f[k.val] :=
  Memory.read_foldl_write f frameIndices m k (.inl (by revert k; decide))

/-- Two buffers in canonical form that read alike at every index are equal. -/
theorem Memory.ext_of_rising {m n : Memory} (hm : Memory.rising m = true) (hn : Memory.rising n = true)
    (h : ∀ k, Memory.read m k = Memory.read n k) : m = n := by
  have out : ∀ {m : Memory} {k : Nat}, (∀ d ∈ m, k < d.1) → Memory.read m k = none := by
    intro m k hk
    induction m with
    | nil => rfl
    | cons d m ih =>
      obtain ⟨a, b⟩ := d
      have : a ≠ k := Nat.ne_of_gt (hk _ (List.mem_cons_self ..))
      simp [Memory.read, this, ih fun d hd => hk d (List.mem_cons_of_mem _ hd)]
  induction m generalizing n with
  | nil =>
    cases n with
    | nil => rfl
    | cons d n => simpa [Memory.read, Memory.unlisted] using h d.1
  | cons c m ih =>
    cases n with
    | nil => simpa [Memory.read, Memory.unlisted] using h c.1
    | cons d n =>
      obtain ⟨a, b⟩ := c
      obtain ⟨a', b'⟩ := d
      simp only [Memory.rising, Bool.and_eq_true, List.all_eq_true, decide_eq_true_eq] at hm hn
      have haa : a = a' := by
        rcases lt_trichotomy a a' with hl | he | hl
        · have := h a
          rw [out (m := (a', b') :: n) (k := a)] at this
          · simp [Memory.read] at this
          · intro d hd
            rcases List.mem_cons.1 hd with rfl | hd
            · exact hl
            · exact lt_trans hl (hn.1 d hd)
        · exact he
        · have := h a'
          rw [out (m := (a, b) :: m) (k := a')] at this
          · simp [Memory.read] at this
          · intro d hd
            rcases List.mem_cons.1 hd with rfl | hd
            · exact hl
            · exact lt_trans hl (hm.1 d hd)
      subst haa
      have hb : b = b' := by simpa [Memory.read] using h a
      subst hb
      congr 1
      refine ih hm.2 hn.2 fun k => ?_
      by_cases hk : a = k
      · subst hk
        rw [out hm.1, out hn.1]
      · simpa [Memory.read, hk] using h k

/-- No index from ten up reads as a byte in canonical form. -/
theorem Memory.read_eq_none {m : Memory} (h : Memory.wf m = true) {k : Nat} (hk : 10 ≤ k) :
    Memory.read m k = none := by
  simp only [Memory.wf, Bool.and_eq_true, List.all_eq_true, decide_eq_true_eq] at h
  have h2 := h.2
  clear h
  induction m with
  | nil => rfl
  | cons d m ih =>
    obtain ⟨a, b⟩ := d
    have : a < 10 := h2 (a, b) (List.mem_cons_self ..)
    simp only [Memory.read, if_neg (by omega : a ≠ k)]
    exact ih fun c hc => h2 c (List.mem_cons_of_mem _ hc)

/-- A stored frame replaces the whole buffer: in canonical form nothing of the old contents is left. -/
theorem Memory.writeFrame_eq {m n : Memory} (f : Vector Byte 10) (hm : Memory.wf m = true) (hn : Memory.wf n = true) :
    Memory.writeFrame m f = Memory.writeFrame n f := by
  have wm := Memory.writeFrame_wf f hm
  have wn := Memory.writeFrame_wf f hn
  refine Memory.ext_of_rising (Bool.and_eq_true _ _ ▸ wm).1 (Bool.and_eq_true _ _ ▸ wn).1 fun k => ?_
  by_cases hk : k < 10
  · exact (Memory.read_writeFrame m f ⟨k, hk⟩).trans (Memory.read_writeFrame n f ⟨k, hk⟩).symm
  · rw [Memory.read_eq_none wm (by omega), Memory.read_eq_none wn (by omega)]

/-- The reset buffer is in canonical form. -/
theorem State.reset_frm_wf : Memory.wf State.reset.frm = true := rfl

end Sys2Proof.Machine
end

