-- ==== Sys2Proof/Laws/Ops.lean ====
section
/-!
SUPPORT. What the shared operations can do, each said once: sequencing, the sample registers, the reads of the frame
buffer, and that no command stops.
-/

namespace Sys2Proof.Machine

/-! ## Sequencing -/

@[simp] theorem andThen_next (s : State) (f : State → Result) : andThen (.next s) f = f s := rfl

@[simp] theorem andThen_fault (e : Fault) (f : State → Result) : andThen (.fault e) f = .fault e := rfl

@[simp] theorem andThen_refused (e : Refusal) (f : State → Result) : andThen (.refused e) f = .refused e := rfl

/-- A sequence ends in a next state only through a next state of its first part. -/
theorem andThen_eq_next {r : Result} {f : State → Result} {t : State} :
    andThen r f = .next t ↔ ∃ s, r = .next s ∧ f s = .next t := by
  cases r with
  | next s => simp
  | fault e => simp
  | refused e => simp

/-! ## The sample registers and their valid bits -/

/-- LOAD_SAMPLE's write is read back at its index and nowhere else. -/
@[simp] theorem State.sample_writeSample (s : State) (i j : BitVec 2) (v : Half) :
    (s.writeSample i v).sample j = if j = i then v else s.sample j := by
  simp only [State.sample, State.writeSample, setSample, Vector.getElem_set, eq_comm (a := j), BitVec.toNat_inj]

/-- Setting a valid bit sets that one bit. -/
theorem getLsbD_setValid (sv : BitVec 4) (i j : BitVec 2) :
    (setValid sv i).getLsbD j.toNat = if j = i then true else sv.getLsbD j.toNat := by
  revert sv i j
  decide +kernel

@[simp] theorem State.sampleValid_writeSample (s : State) (i j : BitVec 2) (v : Half) :
    (s.writeSample i v).sampleValid j = if j = i then true else s.sampleValid j :=
  getLsbD_setValid s.sv i j

/-- All samples are valid just when every valid bit is set. -/
theorem sv_eq_allValid_iff (s : State) : s.sv = allValid ↔ ∀ i, s.sampleValid i = true := by
  unfold State.sampleValid
  generalize s.sv = sv
  revert sv
  decide +kernel

/-! ## Reading the frame buffer -/

/-- A frame byte is read just when it exists and holds a value. -/
theorem State.memRead_eq_ok {s : State} {k : BitVec 4} {b : Byte} :
    s.memRead k = .ok b ↔ k.toNat < 10 ∧ Memory.read s.frm k.toNat = some b := by
  unfold State.memRead
  split
  · rename_i h
    cases Memory.read s.frm k.toNat <;> simp [h]
  · rename_i h
    simp [h]

/-- A buffer that holds a frame gives its byte. -/
theorem State.memRead_of_holds {s : State} {f : Vector Byte 10} (h : Memory.holds s.frm f) {k : BitVec 4}
    (hk : k.toNat < 10) : s.memRead k = .ok f[k.toNat] :=
  State.memRead_eq_ok.2 ⟨hk, h ⟨k.toNat, hk⟩⟩

/-- A stored frame is held. -/
theorem Memory.holds_writeFrame (m : Memory) (f : Vector Byte 10) : Memory.holds (Memory.writeFrame m f) f :=
  Memory.read_writeFrame m f

/-- Every frame ends in the CRC of its first eight bytes (R82). -/
theorem frame_crcOk (u0 u1 u2 u3 : Half) : frameCrcOk (frame u0 u1 u2 u3) := ⟨rfl, rfl⟩

/-! ## The ports -/

/-- A word is turned away only in reset, or if it is a PACK while a frame is sent (R31). -/
theorem State.cmdReady_eq_false {s : State} {w : Word} :
    s.cmdReady w = false ↔ s.rst = true ∨ (decode w = .command .pack ∧ s.busy = true) := by
  unfold State.cmdReady
  cases s.rst <;> simp

/-- A look at the outputs after the first reset. -/
theorem State.outputs_eq_ok {s : State} {cmd : Word} {o : Outputs} :
    s.outputs cmd = .ok o ↔ s.resetDone = true ∧ ∃ b, s.txData = .ok b ∧
      o = ⟨s.cmdReady cmd, s.rdata, s.txValid, b, s.busy, s.err⟩ := by
  unfold State.outputs
  cases s.resetDone with
  | false => simp
  | true => cases s.txData <;> simp [State.busyO, State.errO, eq_comm]

/-- A look before the first reset edge. -/
theorem State.outputs_before_reset {s : State} (cmd : Word) (h : s.resetDone = false) :
    s.outputs cmd = .error .observedBeforeReset := by
  simp [State.outputs, h]

/-! ## Commands -/

/-- PACK does one of three things (R104): it is held, it raises PACK_INCOMPLETE, or it starts a frame. -/
theorem execPack_cases (s : State) :
    (s.busy = true ∧ execPack s = .next s) ∨
    (s.busy = false ∧ s.sv ≠ allValid ∧ execPack s = .next (s.raise .packIncomplete)) ∨
    (s.busy = false ∧ s.sv = allValid ∧ execPack s = .next (s.startFrame s.sampleFrame)) := by
  unfold execPack
  split
  · exact .inl ⟨by assumption, rfl⟩
  · split
    · exact .inr (.inl ⟨by simpa using ‹¬ s.busy = true›, by assumption, rfl⟩)
    · exact .inr (.inr ⟨by simpa using ‹¬ s.busy = true›, by simpa using ‹¬ s.sv ≠ allValid›, rfl⟩)

/-- No command stops the machine. -/
theorem exec_next (i : Instr) (s : State) : ∃ t, exec i s = .next t := by
  cases i with
  | pack => rcases execPack_cases s with h | h | h
            · exact ⟨_, h.2⟩
            · exact ⟨_, h.2.2⟩
            · exact ⟨_, h.2.2⟩
  | nop | crcInit | crcFeed | crcRead | loadSample | statusRead => exact ⟨_, rfl⟩

/-- What a command leaves as it is, whichever it is: the environment's inputs and what the sink has received. -/
theorem exec_env {i : Instr} {s t : State} (h : exec i s = .next t) :
    t.cmdIn = s.cmdIn ∧ t.txReadyIn = s.txReadyIn ∧ t.rstIn = s.rstIn ∧ t.cycle = s.cycle ∧ t.txOut = s.txOut ∧
      t.rdataOut = s.rdataOut ∧ t.resetSeen = s.resetSeen ∧ t.resetDone = s.resetDone := by
  cases i with
  | pack =>
    change execPack s = _ at h
    rcases execPack_cases s with h' | h' | h'
    · rw [h'.2] at h; cases h; exact ⟨rfl, rfl, rfl, rfl, rfl, rfl, rfl, rfl⟩
    · rw [h'.2.2] at h; cases h; simp
    · rw [h'.2.2] at h; cases h; exact ⟨rfl, rfl, rfl, rfl, rfl, rfl, rfl, rfl⟩
  | nop | crcInit | crcFeed | crcRead | loadSample | statusRead =>
    cases h; exact ⟨rfl, rfl, rfl, rfl, rfl, rfl, rfl, rfl⟩

end Sys2Proof.Machine
end

