-- ==== Sys2Proof/Laws/PerInstr.lean ====
section
/-!
SUPPORT. Per-instruction laws: every command's word matches the mask and pattern of its row of the opcode map
(spec/30_encoding.md R54).
-/

namespace Sys2Proof.Laws.SpellsItsRow

/-- The word of the command `i` is one that the row of `i` spells. -/
def Statement (i : Instr) : Prop := i.row.spells (encode i)

theorem nop : Statement .nop := by
  simp only [Statement, OpcodeRow.spells]; decide

theorem crcInit : Statement .crcInit := by
  simp only [Statement, OpcodeRow.spells]; decide

theorem crcFeed (b : Byte) : Statement (.crcFeed b) := by
  simp only [Statement, OpcodeRow.spells, Instr.row, encode]
  revert b; decide +kernel

theorem crcRead : Statement .crcRead := by
  simp only [Statement, OpcodeRow.spells]; decide

theorem loadSample (i : BitVec 2) (v : Half) : Statement (.loadSample i v) := by
  simp only [Statement, OpcodeRow.spells, Instr.row, encode]
  have h : (0x4#4 ++ (0#10 ++ (i ++ v)) : Word) = (0x4#4 ++ 0#10) ++ (i ++ v) := by
    ext k hk
    simp only [BitVec.getElem_append]
    grind
  rw [h, show (0xFFFC0000#32 : Word) = 0x3FFF#14 ++ 0#18 by decide, BitVec.and_append]
  simp

theorem pack : Statement .pack := by
  simp only [Statement, OpcodeRow.spells]; decide

theorem statusRead : Statement .statusRead := by
  simp only [Statement, OpcodeRow.spells]; decide

end Sys2Proof.Laws.SpellsItsRow
end

