-- ==== Sys2Proof/Laws/Step.lean ====
section
/-!
SUPPORT. What a step can do, said once: a reset cycle, or a cycle whose command part and tx part each do one of the few
things the rules give them (spec/20_memory.md R40).
-/

namespace Sys2Proof.Machine

/-- An accepted word has a next state: its command's with the read recorded, or the error of an illegal word. -/
theorem acceptWord_cases (w : Word) (s : State) :
    (∃ i t, decode w = .command i ∧ exec i s = .next t ∧ acceptWord w s = .next (recordRead i t)) ∨
    (∃ c, decode w = .illegal c ∧ acceptWord w s = .next (s.raise c)) := by
  unfold acceptWord
  cases hd : decode w with
  | command i =>
    obtain ⟨t, ht⟩ := exec_next i s
    exact .inl ⟨i, t, rfl, ht, by simp [ht]⟩
  | illegal c => exact .inr ⟨c, rfl, rfl⟩

/-- The command part of a cycle: nothing is presented, the word is held, it is illegal, or its command executes. -/
inductive CommandPart (s : State) : State → Prop where
  | idle (h : s.presented = none) : CommandPart s s.nextPresentation
  | held (w : Word) (h : s.presented = some w) (hr : s.cmdReady w = false) : CommandPart s s
  | illegal (w : Word) (c : Cause) (h : s.presented = some w) (hr : s.cmdReady w = true)
      (hd : decode w = .illegal c) : CommandPart s (s.raise c).nextPresentation
  | command (w : Word) (i : Instr) (u : State) (h : s.presented = some w) (hr : s.cmdReady w = true)
      (hd : decode w = .command i) (he : exec i s = .next u) : CommandPart s (recordRead i u).nextPresentation

/-- The command part always has a next state, and it is one of the four. -/
theorem commandPart_spec (s : State) : ∃ u, commandPart s = .next u ∧ CommandPart s u := by
  unfold commandPart
  cases hp : s.presented with
  | none => exact ⟨_, rfl, .idle hp⟩
  | some w =>
    cases hr : s.cmdReady w with
    | false => exact ⟨s, by simp [hr], .held w hp hr⟩
    | true =>
      rcases acceptWord_cases w s with ⟨i, t, hd, he, ha⟩ | ⟨c, hd, ha⟩
      · exact ⟨_, by simp [ha, hr], .command w i t hp hr hd he⟩
      · exact ⟨_, by simp [ha, hr], .illegal w c hp hr hd⟩

/-- The command part leaves the schedules, the cycle number, what the sink has received and the reset marks alone. -/
theorem CommandPart.env {s u : State} (h : CommandPart s u) :
    u.txReadyIn = s.txReadyIn ∧ u.rstIn = s.rstIn ∧ u.cycle = s.cycle ∧ u.txOut = s.txOut ∧
      u.resetSeen = s.resetSeen ∧ u.resetDone = s.resetDone := by
  cases h with
  | idle h => simp
  | held w h hr => simp
  | illegal w c h hr hd => simp
  | command w i t h hr hd he =>
    obtain ⟨-, h2, h3, h4, h5, -, h7, h8⟩ := exec_env he
    simp [h2, h3, h4, h5, h7, h8]

/-- While a frame is being sent, the command part leaves the frame buffer, `busy` and `tx_idx` alone (R40, R42). -/
theorem CommandPart.busy {s u : State} (h : CommandPart s u) (hb : s.busy = true) :
    u.frm = s.frm ∧ u.busy = true ∧ u.txIdx = s.txIdx := by
  cases h with
  | idle h => simp [hb]
  | held w h hr => simp [hb]
  | illegal w c h hr hd => simp [hb]
  | command w i t h hr hd he =>
    cases i with
    | pack =>
      change execPack s = _ at he
      rw [execPack, if_pos hb] at he
      cases he
      simp [hb]
    | nop | crcInit | crcFeed | crcRead | loadSample | statusRead => cases he; simp [hb]

/-- The tx part of a cycle: nothing is transferred, or the byte at `tx_idx` is. -/
inductive TxPart (s u : State) : State → Prop where
  | stays (h : s.transfers = false) : TxPart s u u
  | sends (b : Byte) (h : s.transfers = true) (hr : s.memRead s.txIdx = .ok b) : TxPart s u (u.sendByte s.txIdx b)

theorem txPart_spec {s u t : State} (h : txPart s u = .next t) : TxPart s u t := by
  unfold txPart at h
  split at h
  · split at h
    · cases h
      exact .sends _ ‹_› ‹_›
    · cases h
  · cases h
    exact .stays (eq_false_of_ne_true ‹¬ _›)

/-- A cycle without a transfer has no tx part. -/
theorem txPart_stays {s : State} (u : State) (h : s.transfers = false) : txPart s u = .next u := by
  unfold txPart
  rw [State.transfers] at h
  simp [h]

/-- A transfer of a byte that is there. -/
theorem txPart_sends {s : State} (u : State) {b : Byte} (h : s.transfers = true) (hr : s.memRead s.txIdx = .ok b) :
    txPart s u = .next (u.sendByte s.txIdx b) := by
  unfold txPart
  rw [State.transfers] at h
  simp [h, hr]

/-- What a step to a next state did: a reset cycle, or the command part, the tx part and the clock edge. -/
theorem step_cases {s t : State} (h : step s = .next t) :
    (s.rst = true ∧ t = s.resetCycle) ∨
    (s.rst = false ∧ s.resetDone = true ∧ ∃ u v, CommandPart s u ∧ TxPart s u v ∧ t = v.tick) := by
  unfold step clockCycle at h
  split at h
  · cases h
    exact .inl ⟨‹_›, rfl⟩
  · split at h
    · obtain ⟨u, hu, hc⟩ := commandPart_spec s
      rw [runCycle, hu, andThen_next, andThen_eq_next] at h
      obtain ⟨v, hv, ht⟩ := h
      cases ht
      exact .inr ⟨by simpa using ‹¬ s.rst = true›, ‹_›, u, v, hc, txPart_spec hv, rfl⟩
    · cases h

/-- A reset cycle. -/
theorem step_of_rst {s : State} (h : s.rst = true) : step s = .next s.resetCycle := by
  simp [step, clockCycle, h]

/-- A cycle that runs is its command part, its tx part and the clock edge. -/
theorem step_of_running {s u : State} (h : s.running) (hu : commandPart s = .next u) :
    step s = andThen (txPart s u) fun v => .next v.tick := by
  simp [step, clockCycle, runCycle, h.1, h.2, hu]

/-- A cycle without reset that has a next state came after the first reset, and is the edge after one of the command
parts. -/
theorem step_edge {s t : State} (h : step s = .next t) (hr : s.rst = false) :
    s.resetDone = true ∧ ∃ u, CommandPart s u ∧ s.edge u = .next t := by
  unfold step clockCycle at h
  rw [if_neg (by simp [hr])] at h
  split at h
  · obtain ⟨u, hu, hc⟩ := commandPart_spec s
    rw [runCycle, hu] at h
    exact ⟨‹_›, u, hc, h⟩
  · cases h

/-- The tx part and the clock edge leave everything but `busy`, `tx_idx`, the bytes sent and the schedules as the command
part left it. -/
theorem State.edge_keeps {s u t : State} (h : s.edge u = .next t) :
    t.crcAcc = u.crcAcc ∧ t.smp = u.smp ∧ t.sv = u.sv ∧ t.frm = u.frm ∧ t.err = u.err ∧ t.errCause = u.errCause ∧
      t.rdata = u.rdata ∧ t.resetDone = u.resetDone ∧ t.cmdIn = u.cmdIn ∧ t.rdataOut = u.rdataOut ∧
      t.resetSeen = u.resetSeen := by
  obtain ⟨v, hv, ht⟩ := andThen_eq_next.1 h
  cases ht
  cases txPart_spec hv <;> simp

end Sys2Proof.Machine
end

