-- ==== Sys2Proof/Tests/Slice0.lean ====
section
/-!
SUPPORT. Small tests, their expected results taken from spec/95_test_vectors.md or from the rule named; and, for every
statement with hypotheses, a state and operands that meet them.
-/

namespace Sys2Proof.Tests

open Sys2Proof.Machine

/-! ## Helpers -/

/-- A step or a run has a next state. -/
def isNext : Result → Bool
  | .next _ => true
  | .fault _ => false
  | .refused _ => false

/-- What `f` gives of the next state, if there is one. -/
def after {α : Type} (r : Result) (f : State → α) : Option α :=
  match r with
  | .next s => some (f s)
  | .fault _ => none
  | .refused _ => none

theorem isNext_iff {r : Result} : isNext r = true ↔ ∃ t, r = .next t := by
  cases r <;> simp [isNext]

/-- The state after reset with these words to come. -/
def presenting (ws : List Word) : State := { State.reset with cmdIn := ws.map some }

/-- The samples of frame F-3 (1, 2, 3, 4) loaded. -/
def loaded : State := { State.reset with smp := #v[1#16, 2#16, 3#16, 4#16], sv := 0b1111#4 }

/-- Frame F-3 in flight at byte `k`, a PACK presented, the sink ready for eleven cycles. -/
def inFlight (k : BitVec 4) : State :=
  { State.reset with
    frm := Memory.writeFrame [] (frame 1#16 2#16 3#16 4#16)
    busy := true
    txIdx := k
    cmdIn := [some 0x50000000#32, some 0x60000000#32]
    txReadyIn := List.replicate 11 true }

theorem inFlight_holds (k : BitVec 4) : Memory.holds (inFlight k).frm (frame 1#16 2#16 3#16 4#16) :=
  Memory.holds_writeFrame _ _

theorem inFlight_Inv (k : BitVec 4) (h : k.toNat ≤ 9) : (inFlight k).Inv where
  frmWf := Memory.writeFrame_wf _ rfl
  idleIndex := fun h => by cases h
  indexRange := h
  errCause := by simp [inFlight, State.reset]
  frameWhole := fun _ => ⟨_, inFlight_holds k, frame_crcOk _ _ _ _⟩

/-! ## Well-formedness: each check refuses an ill-formed line (R58) -/

theorem test_asm_feed_refused : assemble (.crcFeed 256) = none := by decide
theorem test_asm_feed_negative_refused : assemble (.crcFeed (-1)) = none := by decide
theorem test_asm_index_refused : assemble (.loadSample 4 0) = none := by decide
theorem test_asm_sample_refused : assemble (.loadSample 0 65536) = none := by decide
theorem test_asm_sample_low_refused : assemble (.loadSample 0 (-32769)) = none := by decide
theorem test_asm_word_refused : assemble (.word 0x100000000) = none := by decide
theorem test_asm_crcBuf_refused : assemble (.crcBuf [0, 256]) = none := by decide
theorem test_asm_output_refused : assemble (.output 0 0 0 32768) = none := by decide

/-- R58: `LOAD_SAMPLE 0, -1` and `LOAD_SAMPLE 0, 65535` both encode as 0x4000FFFF. -/
theorem test_asm_sample_spellings :
    assemble (.loadSample 0 (-1)) = some [0x4000FFFF#32] ∧ assemble (.loadSample 0 65535) = some [0x4000FFFF#32] := by
  decide

/-- The words of program P2: OUTPUT 1, 2, 3, 4. -/
theorem test_asm_output :
    assemble (.output 1 2 3 4) =
      some [0x40000001#32, 0x40010002#32, 0x40020003#32, 0x40030004#32, 0x50000000#32] := by decide

/-! ## Decoding (section 4 of the test vectors, each word written from R50 and R54) -/

theorem test_decode_nop : decode 0b00000000000000000000000000000000#32 = .command .nop := by decide
theorem test_decode_crcInit : decode 0b00010000000000000000000000000000#32 = .command .crcInit := by decide
theorem test_decode_crcFeed : decode 0b00100000000000000000000000110001#32 = .command (.crcFeed 0x31#8) := by decide
theorem test_decode_crcRead : decode 0b00110000000000000000000000000000#32 = .command .crcRead := by decide
theorem test_decode_loadSample :
    decode 0b01000000000000010001001000110100#32 = .command (.loadSample 1#2 0x1234#16) := by decide
theorem test_decode_pack : decode 0b01010000000000000000000000000000#32 = .command .pack := by decide
theorem test_decode_statusRead : decode 0b01100000000000000000000000000000#32 = .command .statusRead := by decide

theorem test_decode_reserved_bits :
    decode 0x00000001#32 = .illegal .reservedField ∧ decode 0x20000100#32 = .illegal .reservedField ∧
    decode 0x40040000#32 = .illegal .reservedField ∧ decode 0x50010000#32 = .illegal .reservedField := by decide

theorem test_decode_reserved_opcodes :
    decode 0x70000000#32 = .illegal .illegalOpcode ∧ decode 0xF0000000#32 = .illegal .illegalOpcode ∧
    decode 0x7FFFFFFF#32 = .illegal .illegalOpcode := by decide

theorem test_tableWord : decodeTableWord 32 0x4003FFFF = some (.loadSample 3#2 0xFFFF#16) := by decide

/-! ## CRC (section 2) -/

/-- Vectors F1, F5, F7, F9 and F11. -/
theorem test_crcStep8 :
    crcStep8 0xFFFF#16 0x00#8 = 0x40BF#16 ∧ crcStep8 0xFFFF#16 0x31#8 = 0x947E#16 ∧
    crcStep8 0x0000#16 0x01#8 = 0xC0C1#16 ∧ crcStep8 0x8000#16 0x00#8 = 0x0080#16 ∧
    crcStep8 0x1234#16 0x56#8 = 0xE993#16 := by decide +kernel

/-- Sequences C-1, C-Z and C-M. -/
theorem test_crc16 :
    crc16 [0x31#8, 0x32#8, 0x33#8, 0x34#8, 0x35#8, 0x36#8, 0x37#8, 0x38#8, 0x39#8] = 0x4B37#16 ∧
    crc16 (List.replicate 8 0#8) = 0x0B40#16 ∧
    crc16 [0x01#8, 0x03#8, 0x00#8, 0x00#8, 0x00#8, 0x0A#8] = 0xCDC5#16 := by decide +kernel

/-- K6: CRC_FEED 0x56 from 0x1234, while a frame is sent. -/
theorem test_crcFeed :
    after (exec (.crcFeed 0x56#8) { inFlight 3#4 with crcAcc := 0x1234#16 }) State.crcAcc = some 0xE993#16 := by
  decide +kernel

/-- The example of R70. -/
theorem test_crcInit : after (exec .crcInit { State.reset with crcAcc := 0x4B37#16 }) State.crcAcc = some 0xFFFF#16 := by
  decide

/-- S1: reset, then CRC_READ, gives 0xFFFF. -/
theorem test_crcRead : after (step (presenting [0x30000000#32])) State.rdata = some 0xFFFF#16 := by decide

/-! ## Frames (section 3) -/

/-- Frames F-2 and F-4. -/
theorem test_frame :
    (frame (u16 (-1)) (u16 (-1)) (u16 (-1)) (u16 (-1))).toList =
      [0xFF#8, 0xFF#8, 0xFF#8, 0xFF#8, 0xFF#8, 0xFF#8, 0xFF#8, 0xFF#8, 0x01#8, 0x8F#8] ∧
    (frame (u16 (-32768)) (u16 32767) (u16 (-1)) (u16 0)).toList =
      [0x00#8, 0x80#8, 0xFF#8, 0x7F#8, 0xFF#8, 0xFF#8, 0x00#8, 0x00#8, 0xC0#8, 0x22#8] := by decide +kernel

/-- L1: LOAD_SAMPLE 2, -2. -/
theorem test_loadSample :
    after (step (presenting [0x4002FFFE#32])) (fun s => (s.sample 2#2, s.sv, s.status)) =
      some (0xFFFE#16, 0b0100#4, 0x0400#16) := by decide

/-- L2: the last value of a sample wins. -/
theorem test_loadSample_again :
    after (exec (.loadSample 0#2 7#16) { State.reset with smp := #v[5#16, 0#16, 0#16, 0#16], sv := 0b0001#4 })
      (fun s => (s.sample 0#2, s.sv)) = some (7#16, 0b0001#4) := by decide

/-- The example of R81. -/
theorem test_pack :
    after (exec .pack loaded) (fun s => (s.busy, s.txIdx, s.sv, s.frm)) =
      some (true, 0#4, 0b0000#4, [(0, 0x01#8), (1, 0x00#8), (2, 0x02#8), (3, 0x00#8), (4, 0x03#8), (5, 0x00#8),
        (6, 0x04#8), (7, 0x00#8), (8, 0x82#8), (9, 0xA1#8)]) := by decide +kernel

/-- K1: PACK after reset is PACK_INCOMPLETE. -/
theorem test_pack_incomplete :
    after (step (presenting [0x50000000#32])) (fun s => (s.err, s.errCause, s.busy, s.status)) =
      some (true, 3#2, false, 0x00E0#16) := by decide

/-- T1 and T2: the first and the last byte of frame F-3. -/
theorem test_tx :
    after (step (inFlight 0#4)) (fun s => (s.txOut, s.busy, s.txIdx)) = some ([0x01#8], true, 1#4) ∧
    after (step (inFlight 9#4)) (fun s => (s.txOut, s.busy, s.txIdx)) = some ([0xA1#8], false, 0#4) := by
  decide +kernel

/-- T5: a reset cycle emits nothing and abandons the frame. -/
theorem test_tx_reset :
    after (step { inFlight 3#4 with rstIn := [true] }) (fun s => (s.txOut, s.busy, s.txIdx)) =
      some ([], false, 0#4) := by decide

/-- K4: a held PACK stays presented. -/
theorem test_pack_held :
    after (step (inFlight 4#4)) (fun s => s.cmdIn) = some [some 0x50000000#32, some 0x60000000#32] := by
  decide +kernel

/-! ## Status and errors (sections 3.2 and 5) -/

/-- The state with `sv = 'b0111` and cause 3 reads 0x07E0. -/
theorem test_statusRead :
    after (exec .statusRead { State.reset with sv := 0b0111#4, err := true, errCause := 3#2 }) State.rdata =
      some 0x07E0#16 := by decide

/-- STATUS_READ in a cycle that transfers byte 3 returns the state before the transfer, 0x0013. -/
theorem test_statusRead_before_transfer :
    after (step { inFlight 3#4 with cmdIn := [some 0x60000000#32] }) (fun s => (s.rdata, s.txIdx)) =
      some (0x0013#16, 4#4) := by decide +kernel

/-- L3: a reserved field. -/
theorem test_reserved_field :
    after (step (presenting [0x40040000#32])) (fun s => (s.status, s.smp, s.sv)) =
      some (0x00A0#16, State.reset.smp, 0b0000#4) := by decide

/-- P4, cycle 4: a later error keeps the first cause. -/
theorem test_first_cause_kept :
    after (exec .nop (({ State.reset with err := true, errCause := 3#2 } : State).raise .illegalOpcode))
      State.errCause = some 3#2 := by decide

/-- R90: NOP. -/
theorem test_nop : after (exec .nop (inFlight 3#4)) (fun s => (s.txIdx, s.busy)) = some (3#4, true) := by decide

/-- R120: an observation before the first reset faults, whatever is on `cmd`. -/
theorem test_before_reset :
    ({ State.reset with resetDone := false } : State).outputs 0x00000000#32 = .error .observedBeforeReset ∧
    ({ State.reset with resetDone := false } : State).outputs 0x50000000#32 = .error .observedBeforeReset := by decide

/-- A placed word is the next command. -/
theorem test_withFetchWord :
    after (step (State.reset.withFetchWord 32 0x200000FF)) (fun s => (s.crcAcc, s.cmdIn)) =
      some (0x00FF#16, []) := by decide +kernel

/-! ## Witnesses: every hypothesis of a statement is met somewhere -/

/-- OpcodeMapDecidesTheCommand: a word of each operand row at its last value, and a word of no row. -/
theorem witness_opcodeMap :
    decode 0x200000FF#32 = .command (.crcFeed 0xFF#8) ∧ decode 0x4003FFFF#32 = .command (.loadSample 3#2 0xFFFF#16) ∧
    Instr.nop.row.spells 0#32 ∧ ∀ r ∈ opcodeRows, ¬ r.spells 0x70000000#32 := by
  refine ⟨by decide, by decide, ?_, ?_⟩
  · exact Laws.SpellsItsRow.nop
  · simp only [OpcodeRow.spells]; decide

/-- DecoderGivesTheVerdictsOfItsPseudocode: the boundary opcodes 6 and 7, and opcodes 2 and 4. -/
theorem witness_decoder :
    7 ≤ (BitVec.extractLsb' 28 4 0x70000000#32).toNat ∧
    (BitVec.extractLsb' 28 4 0x68000000#32 ∈ [0x0#4, 0x1#4, 0x3#4, 0x5#4, 0x6#4] ∧
      BitVec.extractLsb' 0 28 0x68000000#32 ≠ 0#28) ∧
    (BitVec.extractLsb' 0 28 0x60000000#32 = 0#28 ∧ BitVec.extractLsb' 28 4 0x60000000#32 = 0x6#4) ∧
    (BitVec.extractLsb' 0 28 0x00000000#32 = 0#28 ∧ BitVec.extractLsb' 28 4 0x00000000#32 = 0x0#4) ∧
    (BitVec.extractLsb' 0 28 0x10000000#32 = 0#28 ∧ BitVec.extractLsb' 28 4 0x10000000#32 = 0x1#4) ∧
    (BitVec.extractLsb' 0 28 0x30000000#32 = 0#28 ∧ BitVec.extractLsb' 28 4 0x30000000#32 = 0x3#4) ∧
    (BitVec.extractLsb' 0 28 0x50000000#32 = 0#28 ∧ BitVec.extractLsb' 28 4 0x50000000#32 = 0x5#4) ∧
    BitVec.extractLsb' 28 4 0x200000FF#32 = 0x2#4 ∧ BitVec.extractLsb' 28 4 0x4003FFFF#32 = 0x4#4 := by decide

/-- ReservedWordsAreAcceptedAndOnlyRecorded: the boundary opcodes, `rst` low, a decoded word. -/
theorem witness_reservedWords :
    7 ≤ (opField 0x70000000#32).toNat ∧ (opField 0x60000001#32).toNat ≤ 6 ∧
    (∀ r ∈ opcodeRows, ¬ r.spells 0x60000001#32) ∧ State.reset.rst = false ∧
    decode 0x60000000#32 = .command .statusRead := by
  refine ⟨by decide, by decide, ?_, by decide, by decide⟩
  simp only [OpcodeRow.spells]; decide

/-- AssemblerEncodesAndRefusesByRange: lists of operands inside and outside their ranges. -/
theorem witness_assembler :
    (∀ b ∈ [(0 : Int), 255], 0 ≤ b ∧ b ≤ 255) ∧ (∃ b ∈ [(0 : Int), 256], b < 0 ∨ 255 < b) ∧
    (∀ v ∈ [(-32768 : Int), 32767, 0, -1], -32768 ≤ v ∧ v ≤ 32767) ∧
    (∃ v ∈ [(-32769 : Int), 0, 0, 0], v < -32768 ∨ 32767 < v) := by decide

/-- CrcInitSetsTheAccumulator, CrcReadCopiesTheAccumulator, NopChangesNothing, StatusReadCopiesTheStatusWord: a word of
the opcode that is not the command, and a state with `rst` low. -/
theorem witness_bareCommands :
    (opField 0x10000001#32 = 0x1#4 ∧ 0x10000001#32 ≠ 0x10000000#32) ∧
    (opField 0x38000000#32 = 0x3#4 ∧ 0x38000000#32 ≠ 0x30000000#32) ∧
    (opField 0x00000001#32 = 0x0#4 ∧ 0x00000001#32 ≠ 0x00000000#32) ∧
    (opField 0x60010000#32 = 0x6#4 ∧ 0x60010000#32 ≠ 0x60000000#32) ∧
    (opField 0x50010000#32 = 0x5#4 ∧ 0x50010000#32 ≠ 0x50000000#32) ∧ State.reset.rst = false := by decide

/-- CrcFeedFoldsItsByte: a word of the row, one with a reserved bit, and the two corners of the fold. -/
theorem witness_crcFeed :
    0x200000FF#32 &&& 0xFFFFFF00#32 = 0x20000000#32 ∧
    (opField 0x20000100#32 = 0x2#4 ∧ BitVec.extractLsb' 8 20 0x20000100#32 ≠ 0#20) ∧
    BitVec.extractLsb' 0 8 0xFFFF#16 ^^^ 0xFF#8 = 0#8 ∧ 0x00FF#16 ^^^ BitVec.setWidth 16 0xFF#8 = 0#16 ∧
    (State.reset.rst = false ∧ opField 0x20000100#32 = 0x2#4) := by decide

/-- CrcAccumulatorIsTheCrc16OfTheBytesFed: a list of commands without CRC_INIT, and an accumulator that is a crc16. -/
theorem witness_crcAccumulator :
    Instr.crcInit ∉ [Instr.crcFeed 1#8, .pack, .crcFeed 3#8] ∧ State.reset.crcAcc = crc16 [] := by decide

/-- LoadSampleWritesOneSample: a word of the row, one with a reserved bit, two indices, and the ends of a sample's range. -/
theorem witness_loadSample :
    0x4003FFFF#32 &&& 0xFFFC0000#32 = 0x40000000#32 ∧
    (opField 0x40040000#32 = 0x4#4 ∧ BitVec.extractLsb' 18 10 0x40040000#32 ≠ 0#10) ∧ (0#2 ≠ 3#2) ∧
    ((-32768 : Int) ≤ -32768 ∧ (-32768 : Int) ≤ 32767) ∧ ((-32768 : Int) ≤ 32767 ∧ (32767 : Int) ≤ 32767) ∧
    (State.reset.rst = false ∧ opField 0x40040000#32 = 0x4#4) := by decide

/-- PackHoldsRaisesOrStartsTheFrame: busy, incomplete, complete, packed, and the cycle of byte 9. -/
theorem witness_pack :
    (inFlight 0#4).busy = true ∧
    (State.reset.busy = false ∧ State.reset.rst = false ∧ State.reset.sv ≠ 0b1111#4) ∧
    (loaded.busy = false ∧ loaded.sv = 0b1111#4 ∧ loaded.err = false ∧ isNext (exec .pack loaded) = true) ∧
    ((inFlight 9#4).running ∧ (inFlight 9#4).busy = true ∧ (inFlight 9#4).txIdx = 9#4 ∧
      (inFlight 9#4).txReady = true ∧ Memory.read (inFlight 9#4).frm 9 = some 0xA1#8 ∧
      (inFlight 9#4).cmdIn = some 0x50000000#32 :: [some 0x60000000#32]) := by
  refine ⟨rfl, by decide, by decide, ⟨rfl, rfl⟩, rfl, rfl, rfl, ?_, rfl⟩
  decide +kernel

/-- PackMeaningWhileBusyIsTheUnchangedState: a PACK behind the first byte of a frame, and behind the last. -/
theorem witness_packWhileBusy :
    ((inFlight 0#4).busy = true ∧ (inFlight 0#4).cmdIn = some 0x50000000#32 :: [some 0x60000000#32]) ∧
    ((inFlight 9#4).busy = true ∧ (inFlight 9#4).cmdIn = some 0x50000000#32 :: [some 0x60000000#32]) :=
  ⟨⟨rfl, rfl⟩, rfl, rfl⟩

/-- SignedSamplesSurviveTheFrame: the ends of the range. -/
theorem witness_signedSamples : ∀ n ∈ [(-32768 : Int), 32767, -1, 0], -32768 ≤ n ∧ n ≤ 32767 := by decide

/-- StatusReadCopiesTheStatusWord: a cycle that reads the status, and the states of the printed examples. -/
theorem witness_statusRead :
    (({ inFlight 3#4 with cmdIn := [some 0x60000000#32] } : State).running ∧
      isNext (step { inFlight 3#4 with cmdIn := [some 0x60000000#32] }) = true) ∧
    (loaded.err = false ∧ loaded.errCause = 0#2 ∧ loaded.sv = 0b1111#4 ∧ loaded.busy = false ∧ loaded.txIdx = 0#4) ∧
    ((inFlight 0#4).err = false ∧ (inFlight 0#4).errCause = 0#2 ∧ (inFlight 0#4).sv = 0b0000#4 ∧
      (inFlight 0#4).busy = true ∧ (inFlight 0#4).txIdx = 0#4) ∧
    ((inFlight 3#4).sv = 0b0000#4 ∧ (inFlight 3#4).busy = true ∧ (inFlight 3#4).txIdx = 3#4) := by
  refine ⟨⟨⟨rfl, rfl⟩, by decide +kernel⟩, by decide, by decide, by decide⟩

/-- StepRunsTheDecodedCommand: a LOAD_SAMPLE presented after reset. -/
theorem witness_stepRuns :
    (presenting [0x4002FFFE#32]).running ∧ (presenting [0x4002FFFE#32]).cmdIn = some 0x4002FFFE#32 :: [] ∧
    decode 0x4002FFFE#32 = .command (.loadSample 2#2 0xFFFE#16) ∧
    ¬ (Instr.loadSample 2#2 0xFFFE#16 = .pack ∧ (presenting [0x4002FFFE#32]).busy = true) ∧
    isNext (exec (.loadSample 2#2 0xFFFE#16) (presenting [0x4002FFFE#32])) = true ∧
    (presenting [0x4002FFFE#32]).transfers = false :=
  ⟨⟨rfl, rfl⟩, rfl, by decide, by decide, by decide, by decide⟩

/-- OneVerdictPerWordInPriorityOrder and IllegalCommandRecordsTheFirstCauseOnly: a state for each verdict. -/
theorem witness_verdicts :
    ((presenting [0x7FFFFFFF#32]).running ∧ 7 ≤ (opField 0x7FFFFFFF#32).toNat ∧
      decode 0x7FFFFFFF#32 = .illegal .illegalOpcode) ∧
    ((presenting [0x60000001#32]).running ∧ (opField 0x60000001#32).toNat ≤ 6 ∧
      ∀ r ∈ opcodeRows, ¬ r.spells 0x60000001#32) ∧
    ((inFlight 4#4).running ∧ (inFlight 4#4).busy = true) ∧
    ((presenting [0x50000000#32]).running ∧ (presenting [0x50000000#32]).busy = false ∧
      (presenting [0x50000000#32]).sv ≠ 0b1111#4 ∧ decode 0x50000000#32 = .command .pack) ∧
    (({ loaded with cmdIn := [some 0x50000000#32] } : State).running ∧ loaded.busy = false ∧ loaded.sv = 0b1111#4) ∧
    (({ State.reset with err := true } : State).err = true ∧ State.reset.err = false) ∧
    isNext (step (presenting [0x7FFFFFFF#32])) = true := by
  refine ⟨⟨⟨rfl, rfl⟩, by decide, by decide⟩, ⟨⟨rfl, rfl⟩, by decide, ?_⟩, ⟨⟨rfl, rfl⟩, rfl⟩,
    ⟨⟨rfl, rfl⟩, rfl, by decide, by decide⟩, ⟨⟨rfl, rfl⟩, rfl, rfl⟩, by decide, by decide⟩
  simp only [OpcodeRow.spells]; decide

/-- HeldPackWaitsAndChangesNothing: a held PACK with and without the transfer of byte 9, and in a reset cycle. -/
theorem witness_heldPack :
    (inFlight 9#4).busy = true ∧ (inFlight 9#4).cmdIn = some 0x50000000#32 :: [some 0x60000000#32] ∧
    (inFlight 9#4).rst = false ∧ isNext (step (inFlight 9#4)) = true ∧
    isNext (step { inFlight 4#4 with txReadyIn := [false] }) = true ∧
    ({ inFlight 4#4 with rstIn := [true] } : State).rst = true ∧
    isNext (step { inFlight 4#4 with rstIn := [true] }) = true :=
  ⟨rfl, rfl, rfl, by decide +kernel, by decide, rfl, by decide⟩

/-- ErrorStateIsStickyUntilReset: a step with an error recorded, one that records each cause, and a reset. -/
theorem witness_errorState :
    (({ presenting [0x70000000#32] with err := true, errCause := 3#2 } : State).rst = false ∧
      isNext (step { presenting [0x70000000#32] with err := true, errCause := 3#2 }) = true) ∧
    after (step (presenting [0x00000000#32])) State.err = some false ∧
    after (step (presenting [0x70000000#32])) State.err = some true ∧
    after (step (presenting [0x00000001#32])) State.err = some true ∧
    after (step (presenting [0x50000000#32])) State.err = some true ∧
    (({ State.reset with rstIn := [true], err := true } : State).rst = true ∧
      isNext (step { State.reset with rstIn := [true], err := true }) = true) := by decide

/-- IdleCycleChangesNothing: the state after reset. -/
theorem witness_idleCycle : State.reset.running ∧ State.reset.presented = none ∧ State.reset.transfers = false :=
  ⟨⟨rfl, rfl⟩, rfl, rfl⟩

/-- TxTransferEmitsOneByteAndMovesOn: the first and the last byte with nothing presented, and a cycle without a
transfer for each reason. -/
theorem witness_txTransfer :
    (({ inFlight 0#4 with cmdIn := [] } : State).running ∧ (inFlight 0#4).busy = true ∧ (inFlight 0#4).txReady = true ∧
      (inFlight 0#4).txIdx.toNat ≤ 9 ∧ Memory.read (inFlight 0#4).frm 0 = some 0x01#8) ∧
    ((inFlight 9#4).txIdx.toNat ≤ 9 ∧ Memory.read (inFlight 9#4).frm 9 = some 0xA1#8) ∧
    (isNext (step (inFlight 9#4)) = true ∧ (inFlight 9#4).rst = false) ∧
    (isNext (step State.reset) = true ∧ State.reset.busy = false) ∧
    (isNext (step { inFlight 0#4 with rstIn := [true] }) = true ∧
      ({ inFlight 0#4 with rstIn := [true] } : State).rst = true) ∧
    (isNext (step { inFlight 0#4 with txReadyIn := [false] }) = true ∧
      ({ inFlight 0#4 with txReadyIn := [false] } : State).txReady = false) := by
  refine ⟨⟨⟨rfl, rfl⟩, rfl, rfl, by decide, by decide +kernel⟩, ⟨by decide, by decide +kernel⟩,
    ⟨by decide +kernel, rfl⟩, by decide, by decide, by decide⟩

/-- SinkReceivesTheFrameInOrder: a PACK of four samples, and a sink that takes ten bytes with a pause. -/
theorem witness_sinkReceives :
    ∃ s : State, s.running ∧ s.busy = false ∧ s.sv = 0b1111#4 ∧ s.cmdIn = some 0x50000000#32 :: [] ∧
      s.quietFor (11 + 1) ∧ 11 + 1 ≤ s.txReadyIn.length ∧ ((s.txReadyIn.tail.take 11).count true) ≤ 10 :=
  ⟨{ loaded with
      cmdIn := [some 0x50000000#32]
      txReadyIn := [true, true, true, false, true, true, true, true, true, true, true, true] },
    ⟨rfl, rfl⟩, rfl, rfl, rfl, by simp [State.quietFor, loaded, State.reset], by decide, by decide⟩

/-- HeldPackIsAcceptedAfterTenTransfers: frame F-3 in flight with a PACK behind it. -/
theorem witness_tenTransfers :
    (inFlight 0#4).running ∧ (inFlight 0#4).busy = true ∧ (inFlight 0#4).txIdx = 0#4 ∧
    Memory.holds (inFlight 0#4).frm (frame 1#16 2#16 3#16 4#16) ∧
    (inFlight 0#4).cmdIn = some 0x50000000#32 :: [some 0x60000000#32] ∧ (inFlight 0#4).quietFor 11 ∧
    (inFlight 0#4).txReadyIn.take 10 = List.replicate 10 true :=
  ⟨⟨rfl, rfl⟩, rfl, rfl, inFlight_holds _, rfl, by simp [State.quietFor, inFlight, State.reset], rfl⟩

/-- UnreadySinkLeavesTheFrameStuck: three cycles of a sink that does not accept. -/
theorem witness_unreadySink :
    ∃ s : State, s.resetDone = true ∧ s.busy = true ∧ s.quietFor 3 ∧ 3 ≤ s.txReadyIn.length ∧
      (∀ r ∈ s.txReadyIn.take 3, r = false) ∧ s.presented = some 0x50000000#32 :=
  ⟨{ inFlight 4#4 with txReadyIn := [false, false, false] }, rfl, rfl,
    by simp [State.quietFor, inFlight, State.reset], by decide, by decide, rfl⟩

/-- OutputsShowTheStateBeforeTheEdge: a look with a byte offered, one without, and a state that meets the invariants. -/
theorem witness_outputs :
    (inFlight 9#4).outputs 0x50000000#32 = .ok ⟨false, 0#16, true, 0xA1#8, true, false⟩ ∧
    State.reset.outputs 0x50000000#32 = .ok ⟨true, 0#16, false, 0x00#8, false, false⟩ ∧
    (inFlight 9#4).resetDone = true ∧ (inFlight 9#4).Inv :=
  ⟨by decide +kernel, by decide, rfl, inFlight_Inv _ (by decide)⟩

/-- OnlyInitAndFeedWriteTheAccumulator, OnlyReadCommandsWriteRdata, ValidBitsFollowLoadsAndPacks and
OnlyAnAcceptedPackWritesTheFrame: a step for each command a clause names, one for another, and a reset. -/
theorem witness_writers :
    isNext (step (presenting [0x10000000#32])) = true ∧ isNext (step (presenting [0x20000031#32])) = true ∧
    ((presenting [0x30000000#32]).presented.map decode = some (.command .crcRead) ∧
      isNext (step (presenting [0x30000000#32])) = true) ∧
    ((presenting [0x60000000#32]).presented.map decode = some (.command .statusRead) ∧
      isNext (step (presenting [0x60000000#32])) = true) ∧
    ((presenting [0x4003FFFF#32]).presented.map decode = some (.command (.loadSample 3#2 0xFFFF#16)) ∧
      isNext (step (presenting [0x4003FFFF#32])) = true) ∧
    (({ loaded with cmdIn := [some 0x50000000#32] } : State).presented.map decode = some (.command .pack) ∧
      ({ loaded with cmdIn := [some 0x50000000#32] } : State).busy = false ∧
      after (step { loaded with cmdIn := [some 0x50000000#32] }) State.busy = some true) ∧
    (isNext (step (inFlight 9#4)) = true ∧ (inFlight 9#4).busy = true ∧ (inFlight 9#4).rst = false) ∧
    (isNext (step { inFlight 9#4 with rstIn := [true] }) = true ∧
      ({ inFlight 9#4 with rstIn := [true] } : State).rst = true) := by
  decide +kernel

/-- ResetCycleGivesTheResetValues and PresentationInAResetCycleLeaves: a state in a reset cycle, and one before the first
reset. -/
theorem witness_resetCycle :
    ({ inFlight 3#4 with rstIn := [true] } : State).rst = true ∧
    (({ State.reset with resetDone := false } : State).resetDone = false ∧
      ({ State.reset with resetDone := false } : State).rst = false) := by decide

/-- ResetAbandonsTheFrameInFlight: a reset in the middle of a frame, and the PACK presented again. -/
theorem witness_resetAbandons :
    ∃ s : State, s.rst = true ∧ s.busy = true ∧ s.quietAfterReset ∧
      s.cmdIn = some 0x50000000#32 :: some 0x50000000#32 :: [] :=
  ⟨{ inFlight 3#4 with rstIn := [true], cmdIn := [some 0x50000000#32, some 0x50000000#32] }, rfl, rfl, rfl, rfl⟩

/-- StepStopsOnlyBeforeTheFirstReset: a state that meets the invariants, a reset cycle, a cycle before the first reset. -/
theorem witness_stops :
    ((inFlight 9#4).Inv ∧ (inFlight 9#4).resetDone = true) ∧
    ({ State.reset with rstIn := [true] } : State).rst = true ∧
    (({ State.reset with resetDone := false } : State).resetDone = false ∧
      ({ State.reset with resetDone := false } : State).rst = false) :=
  ⟨⟨inFlight_Inv _ (by decide), rfl⟩, rfl, rfl, rfl⟩

/-- StepKeepsTheStateInvariants and StepKeepsWholeFramesSent: the last byte of a frame, and a finished state. -/
theorem witness_invariants :
    ((inFlight 9#4).Inv ∧ isNext (step (inFlight 9#4)) = true) ∧
    (∃ s : State, s.sentWholeFrames ∧ s.busy = true ∧ isNext (step s) = true) ∧
    (State.reset.sentWholeFrames ∧ State.reset.finished) := by
  refine ⟨⟨inFlight_Inv _ (by decide), by decide +kernel⟩,
    ⟨inFlight 0#4, fun _ => ⟨[], [], rfl, fun _ => rfl, fun _ => ⟨#v[1#16, 2#16, 3#16, 4#16], inFlight_holds _, rfl⟩⟩,
      rfl, by decide +kernel⟩,
    fun _ => ⟨[], [], rfl, fun _ => rfl, fun h => by cases h⟩, ?_⟩
  exact ⟨rfl, fun p hp => (by cases hp), rfl, rfl⟩

/-- InvalidSamplesAndIdleFrameAreNeverSeen: two states that differ in an invalid sample and in the idle frame buffer. -/
theorem witness_unseen :
    ∃ s t : State, s.sameSeen t ∧ s ≠ t ∧ Memory.wf s.frm = true ∧ Memory.wf t.frm = true ∧ isNext (step s) = true := by
  refine ⟨State.reset, { State.reset with smp := #v[7#16, 0#16, 0#16, 0#16], frm := [(3, 0x55#8)] }, ?_, by decide,
    by decide, by decide, by decide⟩
  refine ⟨rfl, rfl, fun i hi => ?_, rfl, fun h => (by cases h), rfl, rfl, rfl, rfl, rfl, rfl, rfl, rfl, rfl, rfl, rfl, rfl⟩
  simp [State.sampleValid, State.reset] at hi

end Sys2Proof.Tests
end

section
/-!
SUPPORT. The registers of spec/10_state.md: the verdicts on the presented word, what a cycle makes of each verdict, and
who writes `err`, `err_cause`, `rdata`, the valid bits and the sample registers.
-/

namespace Sys2Proof.Machine

/-! ## Verdicts of the decoder -/

/-- A word other than the bare spelling of its opcode has a bit set below the opcode. -/
theorem belowOp_ne_zero {w : Word} {o : BitVec 4} (ho : opField w = o) (hw : w ≠ o ++ 0#28) : belowOp w ≠ 0#28 :=
  fun hb => hw (by rw [← word_eq_fields w, ho, hb])

/-- A STATUS_READ word with a must-be-zero bit set is illegal (R55). -/
theorem decode_statusRead_reserved {w : Word} (ho : opField w = 0x6#4) (hw : w ≠ 0x60000000#32) :
    decode w = .illegal .reservedField := by
  have hb : belowOp w ≠ 0#28 := belowOp_ne_zero ho hw
  simp [decode, ho, decodeBare, hb]

/-- The decoder never answers PACK_INCOMPLETE: that cause is PACK's own (R100). -/
theorem decode_ne_packIncomplete (w : Word) : decode w ≠ .illegal .packIncomplete := by
  have bare (i : Instr) : decodeBare w i ≠ .illegal .packIncomplete := by unfold decodeBare; split <;> simp
  have feed : decodeFeed w ≠ .illegal .packIncomplete := by unfold decodeFeed; split <;> simp
  have load : decodeLoad w ≠ .illegal .packIncomplete := by unfold decodeLoad; split <;> simp
  unfold decode
  split
  exacts [bare _, bare _, feed, bare _, load, bare _, bare _, by simp]

/-- Only PACK is ever turned away without reset (R31). -/
theorem State.cmdReady_of_ne_pack {s : State} {w : Word} (hr : s.rst = false) (hw : decode w ≠ .command .pack) :
    s.cmdReady w = true := by
  refine eq_true_of_ne_false fun h => ?_
  rcases State.cmdReady_eq_false.1 h with h | ⟨h, -⟩
  · simp [hr] at h
  · exact hw h

/-! ## What a cycle makes of the verdict on the presented word -/

/-- PACK's three outcomes, read off its next state. -/
theorem exec_pack_cases {s u : State} (h : exec .pack s = .next u) :
    (s.busy = true ∧ u = s) ∨ (s.busy = false ∧ s.sv ≠ allValid ∧ u = s.raise .packIncomplete) ∨
    (s.busy = false ∧ s.sv = allValid ∧ u = s.startFrame s.sampleFrame) := by
  have he : exec .pack s = execPack s := rfl
  rw [he] at h
  rcases execPack_cases s with ⟨hb, hp⟩ | ⟨hb, hs, hp⟩ | ⟨hb, hs, hp⟩ <;> rw [hp] at h <;> cases h
  · exact .inl ⟨hb, rfl⟩
  · exact .inr (.inl ⟨hb, hs, rfl⟩)
  · exact .inr (.inr ⟨hb, hs, rfl⟩)

/-- The effect of a verdict (`none`: nothing presented) on the state before the edge. A held PACK is the PACK whose
meaning is the unchanged state. -/
inductive VerdictEffect (s : State) : Option Decoded → State → Prop where
  | idle : VerdictEffect s none s
  | illegal (c : Cause) : VerdictEffect s (some (.illegal c)) (s.raise c)
  | command (i : Instr) (u : State) (he : exec i s = .next u) :
      VerdictEffect s (some (.command i)) (recordRead i u)

/-- The command part of a cycle without reset is the effect of the verdict, and a move in the command list. -/
theorem CommandPart.verdictEffect {s u : State} (h : CommandPart s u) (hr : s.rst = false) :
    ∃ v c, VerdictEffect s (s.presented.map decode) v ∧ u = { v with cmdIn := c } := by
  cases h with
  | idle hp =>
    rw [hp]
    exact ⟨s, _, .idle, rfl⟩
  | held w hp hw =>
    obtain ⟨hd, hb⟩ : decode w = .command .pack ∧ s.busy = true := by
      simpa [hr] using State.cmdReady_eq_false.1 hw
    have he : exec .pack s = .next s := if_pos hb
    rw [hp, Option.map_some, hd]
    exact ⟨s, _, .command .pack s he, rfl⟩
  | illegal w c hp _ hd =>
    rw [hp, Option.map_some, hd]
    exact ⟨_, _, .illegal c, rfl⟩
  | command w i v hp _ hd he =>
    rw [hp, Option.map_some, hd]
    exact ⟨_, _, .command i v he, rfl⟩

/-- A step in a cycle with reset is the reset cycle. -/
theorem step_eq_resetCycle {s t : State} (h : step s = .next t) (hr : s.rst = true) : t = s.resetCycle := by
  rw [step_of_rst hr] at h
  cases h
  rfl

/-- A step without reset is the effect of the verdict, a move in the command list, and the edge. -/
theorem step_verdictEffect {s t : State} (h : step s = .next t) (hr : s.rst = false) :
    ∃ v c, VerdictEffect s (s.presented.map decode) v ∧ s.edge { v with cmdIn := c } = .next t := by
  obtain ⟨-, u, hu, he⟩ := step_edge h hr
  obtain ⟨v, c, hv, rfl⟩ := hu.verdictEffect hr
  exact ⟨v, c, hv, he⟩

/-- After a step without reset the samples, the error state and `rdata` stand as the verdict's effect left them. -/
theorem step_registers {s t : State} (h : step s = .next t) (hr : s.rst = false) :
    ∃ v, VerdictEffect s (s.presented.map decode) v ∧ t.smp = v.smp ∧ t.sv = v.sv ∧ t.err = v.err ∧
      t.errCause = v.errCause ∧ t.rdata = v.rdata ∧ t.rdataOut = v.rdataOut := by
  obtain ⟨v, c, hv, he⟩ := step_verdictEffect h hr
  obtain ⟨-, hsmp, hsv, -, herr, hcause, hrdata, -, -, hout, -⟩ := State.edge_keeps he
  exact ⟨v, hv, hsmp, hsv, herr, hcause, hrdata, hout⟩

/-- Without a frame in flight the edge is the clock's alone. -/
theorem State.edge_of_not_busy {s : State} (u : State) (hb : s.busy = false) : s.edge u = .next u.tick := by
  rw [State.edge, txPart_stays u (by simp [State.transfers, State.txValid, hb]), andThen_next]

/-! ## The STATUS word (R21) -/

@[simp] theorem State.status_txIdx (s : State) : s.status.extractLsb' 0 4 = s.txIdx := by
  rw [State.status, BitVec.extractLsb'_append_eq_of_add_le (by decide), BitVec.extractLsb'_append_eq_of_add_le (by decide),
    BitVec.extractLsb'_append_eq_of_add_le (by decide), BitVec.extractLsb'_append_eq_of_add_le (by decide),
    BitVec.extractLsb'_append_eq_right]

theorem State.status_busy (s : State) : s.status.getLsbD 4 = s.busy := by
  simp only [State.status, flagBit, BitVec.getLsbD_append, BitVec.getLsbD_ofBool]
  simp

theorem State.status_err (s : State) : s.status.getLsbD 5 = s.err := by
  simp only [State.status, flagBit, BitVec.getLsbD_append, BitVec.getLsbD_ofBool]
  simp

@[simp] theorem State.status_errCause (s : State) : s.status.extractLsb' 6 2 = s.errCause := by
  rw [State.status, BitVec.extractLsb'_append_eq_of_add_le (by decide), BitVec.extractLsb'_append_eq_of_add_le (by decide),
    BitVec.extractLsb'_append_eq_left]

@[simp] theorem State.status_sv (s : State) : s.status.extractLsb' 8 4 = s.sv := by
  rw [State.status, BitVec.extractLsb'_append_eq_of_add_le (by decide), BitVec.extractLsb'_append_eq_left]

@[simp] theorem State.status_reserved (s : State) : s.status.extractLsb' 12 4 = 0#4 := by
  rw [State.status, BitVec.extractLsb'_append_eq_left]

/-! ## Who writes `rdata` (R18) -/

/-- CRC_READ shows the accumulator and records it. -/
theorem VerdictEffect.crcRead {s v : State} (h : VerdictEffect s (some (.command .crcRead)) v) :
    v.rdata = s.crcAcc ∧ v.rdataOut = s.rdataOut ++ [s.crcAcc] := by
  cases h with
  | command _ u he => cases he; exact ⟨rfl, rfl⟩

/-- STATUS_READ shows the STATUS word and records it. -/
theorem VerdictEffect.statusRead {s v : State} (h : VerdictEffect s (some (.command .statusRead)) v) :
    v.rdata = s.status ∧ v.rdataOut = s.rdataOut ++ [s.status] := by
  cases h with
  | command _ u he => cases he; exact ⟨rfl, rfl⟩

/-- Every other verdict leaves `rdata` and the record. -/
theorem VerdictEffect.rdata_of_not_read {s v : State} {d : Option Decoded} (h : VerdictEffect s d v)
    (hc : d ≠ some (.command .crcRead)) (hs : d ≠ some (.command .statusRead)) :
    v.rdata = s.rdata ∧ v.rdataOut = s.rdataOut := by
  cases h with
  | idle => exact ⟨rfl, rfl⟩
  | illegal c => simp
  | command i u he =>
    cases i with
    | crcRead => exact absurd rfl hc
    | statusRead => exact absurd rfl hs
    | pack =>
      rcases exec_pack_cases he with ⟨-, rfl⟩ | ⟨-, -, rfl⟩ | ⟨-, -, rfl⟩ <;> simp [recordRead]
    | nop | crcInit | crcFeed | loadSample => cases he; exact ⟨rfl, rfl⟩

/-- Settles O32: the three kinds of verdict, each by its rule above; a reset cycle; the port. -/
theorem onlyReadCommandsWriteRdata : Obligations.OnlyReadCommandsWriteRdata := by
  refine ⟨fun s t h hr => ?_, fun s t h hr => ?_, fun s w o ho => ?_, rfl⟩
  · obtain ⟨v, hv, -, -, -, -, hrdata, hout⟩ := step_registers h hr
    rw [hrdata, hout]
    exact ⟨fun hd => (hd ▸ hv).crcRead, fun hd => (hd ▸ hv).statusRead, hv.rdata_of_not_read⟩
  · rw [step_eq_resetCycle h hr]
    rfl
  · obtain ⟨-, b, -, rfl⟩ := State.outputs_eq_ok.1 ho
    rfl

/-- Settles O19: the fields by the lemmas on the STATUS word, the cycle by the rule on the read's effect. -/
theorem statusReadCopiesTheStatusWord : Obligations.StatusReadCopiesTheStatusWord := by
  have hdec : decode 0x60000000#32 = .command .statusRead := by decide
  refine ⟨fun s => rfl, fun s => ?_, by decide, hdec, fun w => decode_statusRead_reserved, fun s hr => ?_,
    fun s t rest hrun hin h => ?_, fun s he hc => ?_⟩
  · exact ⟨s.status_txIdx, s.status_busy, s.status_err, s.status_errCause, s.status_sv, s.status_reserved⟩
  · exact State.cmdReady_of_ne_pack hr (by simp [hdec])
  · have hp : s.presented.map decode = some (.command .statusRead) := by simp [State.presented, hin, hdec]
    obtain ⟨v, hv, -, -, -, -, hrdata, -⟩ := step_registers h hrun.2
    rw [hrdata]
    exact (hp ▸ hv).statusRead.1
  · refine ⟨fun hs hb ht => ?_, fun hs hb ht => ?_, fun hs hb ht => ?_⟩ <;>
      (rw [State.status, hs, hb, ht, he, hc]; rfl)

/-! ## Who writes `err` and `err_cause` (R16, R17) -/

/-- The verdict raises the cause `c` in this state: an illegal word's own, or PACK_INCOMPLETE of a PACK that is neither
held nor complete (R100, R104). -/
def State.Raises (s : State) (d : Option Decoded) (c : Cause) : Prop :=
  d = some (.illegal c) ∨ (d = some (.command .pack) ∧ s.busy = false ∧ s.sv ≠ allValid ∧ c = .packIncomplete)

/-- A verdict that raises a cause does nothing else. -/
theorem VerdictEffect.of_raises {s v : State} {d : Option Decoded} {c : Cause} (h : VerdictEffect s d v)
    (hc : s.Raises d c) : v = s.raise c := by
  rcases hc with rfl | ⟨rfl, hb, hs, rfl⟩
  · cases h; rfl
  · cases h with
    | command _ u he =>
      rcases exec_pack_cases he with ⟨hb', -⟩ | ⟨-, -, rfl⟩ | ⟨-, hs', -⟩
      · simp [hb] at hb'
      · rfl
      · exact absurd hs' hs

/-- A verdict that raises no cause leaves the error state. -/
theorem VerdictEffect.err_of_not_raises {s v : State} {d : Option Decoded} (h : VerdictEffect s d v)
    (hc : ∀ c, ¬ s.Raises d c) : v.err = s.err ∧ v.errCause = s.errCause := by
  cases h with
  | idle => exact ⟨rfl, rfl⟩
  | illegal c => exact absurd (.inl rfl) (hc c)
  | command i u he =>
    cases i with
    | pack =>
      rcases exec_pack_cases he with ⟨-, rfl⟩ | ⟨hb, hs, -⟩ | ⟨-, -, rfl⟩
      · simp
      · exact absurd (.inr ⟨rfl, hb, hs, rfl⟩) (hc .packIncomplete)
      · simp
    | nop | crcInit | crcFeed | crcRead | loadSample | statusRead => cases he; simp

/-- What a step without reset does to the error state: nothing where no cause is raised, else it records the first. -/
theorem step_err {s t : State} (h : step s = .next t) (hr : s.rst = false) :
    ((∀ c, ¬ s.Raises (s.presented.map decode) c) ∧ t.err = s.err ∧ t.errCause = s.errCause) ∨
    ∃ c, s.Raises (s.presented.map decode) c ∧ t.err = true ∧
      t.errCause = if s.err = true then s.errCause else causeCode c := by
  obtain ⟨v, hv, -, -, herr, hcause, -, -⟩ := step_registers h hr
  rw [herr, hcause]
  by_cases hc : ∃ c, s.Raises (s.presented.map decode) c
  · obtain ⟨c, hc⟩ := hc
    rw [hv.of_raises hc]
    exact .inr ⟨c, hc, s.raise_err c, s.raise_errCause c⟩
  · have hc : ∀ c, ¬ s.Raises (s.presented.map decode) c := fun c h => hc ⟨c, h⟩
    exact .inl ⟨hc, hv.err_of_not_raises hc⟩

/-- The three ways to raise a cause, with the code each records (R100). -/
theorem State.Raises.code {s : State} {c : Cause} (h : s.Raises (s.presented.map decode) c) :
    ∃ w, s.presented = some w ∧
      ((decode w = .illegal .illegalOpcode ∧ causeCode c = 1#2) ∨
       (decode w = .illegal .reservedField ∧ causeCode c = 2#2) ∨
       (decode w = .command .pack ∧ s.busy = false ∧ s.sv ≠ allValid ∧ causeCode c = 3#2)) := by
  rcases h with h | ⟨h, hb, hs, rfl⟩
  · obtain ⟨w, hp, hd⟩ := Option.map_eq_some_iff.1 h
    refine ⟨w, hp, ?_⟩
    cases c with
    | illegalOpcode => exact .inl ⟨hd, rfl⟩
    | reservedField => exact .inr (.inl ⟨hd, rfl⟩)
    | packIncomplete => exact absurd hd (decode_ne_packIncomplete w)
  · obtain ⟨w, hp, hd⟩ := Option.map_eq_some_iff.1 h
    exact ⟨w, hp, .inr (.inr ⟨hd, hb, hs, rfl⟩)⟩

/-- Settles O24, by the two cases of what a step does to the error state. -/
theorem errorStateIsStickyUntilReset : Obligations.ErrorStateIsStickyUntilReset := by
  refine ⟨fun s t h hr => ?_, fun s t w h hr hp hc => ?_, fun s t h hr => ?_, fun s => rfl, rfl, rfl⟩
  · rcases step_err h hr with ⟨-, herr, hcause⟩ | ⟨c, hc, herr, hcause⟩
    · refine ⟨fun he => ⟨herr.trans he, hcause⟩, fun _ _ => hcause, fun he ht => ?_⟩
      simp [herr, he] at ht
    · refine ⟨fun he => ⟨herr, by rw [hcause, if_pos he]⟩, fun _ ht => ?_, fun he _ => ?_⟩
      · simp [herr] at ht
      · rw [hcause, if_neg (by simp [he])]
        exact hc.code
  · have hraises : ∃ c, s.Raises (s.presented.map decode) c := by
      rw [hp, Option.map_some]
      rcases hc with ⟨c, hd⟩ | ⟨hd, hb, hs⟩
      · exact ⟨c, .inl (congrArg some hd)⟩
      · exact ⟨.packIncomplete, .inr ⟨congrArg some hd, hb, hs, rfl⟩⟩
    rcases step_err h hr with ⟨hnot, -, -⟩ | ⟨-, -, herr, -⟩
    · exact absurd hraises (not_exists.2 hnot)
    · exact herr
  · rw [step_eq_resetCycle h hr]
    exact ⟨rfl, rfl⟩

/-! ## Who writes the samples and the valid bits (R11, R12) -/

/-- The verdict starts a frame in this state: a PACK that is neither held nor incomplete (R81). -/
def State.Starts (s : State) (d : Option Decoded) : Prop :=
  d = some (.command .pack) ∧ s.busy = false ∧ s.sv = allValid

/-- A verdict that starts a frame stores it and uses up the samples. -/
theorem VerdictEffect.of_starts {s v : State} {d : Option Decoded} (h : VerdictEffect s d v) (hs : s.Starts d) :
    v = s.startFrame s.sampleFrame := by
  obtain ⟨rfl, hb, hsv⟩ := hs
  cases h with
  | command _ u he =>
    rcases exec_pack_cases he with ⟨hb', -⟩ | ⟨-, hsv', -⟩ | ⟨-, -, rfl⟩
    · simp [hb] at hb'
    · exact absurd hsv hsv'
    · rfl

/-- LOAD_SAMPLE writes its sample. -/
theorem VerdictEffect.loadSample {s v : State} {i : BitVec 2} {x : Half}
    (h : VerdictEffect s (some (.command (.loadSample i x))) v) : v = s.writeSample i x := by
  cases h with
  | command _ u he => cases he; rfl

/-- A verdict that loads no sample and starts no frame leaves the samples, their valid bits and `busy`. -/
theorem VerdictEffect.samples_kept {s v : State} {d : Option Decoded} (h : VerdictEffect s d v)
    (hl : ∀ i x, d ≠ some (.command (.loadSample i x))) (hs : ¬ s.Starts d) :
    v.smp = s.smp ∧ v.sv = s.sv ∧ v.busy = s.busy := by
  cases h with
  | idle => exact ⟨rfl, rfl, rfl⟩
  | illegal c => simp
  | command i u he =>
    cases i with
    | loadSample i x => exact absurd rfl (hl i x)
    | pack =>
      rcases exec_pack_cases he with ⟨-, rfl⟩ | ⟨-, -, rfl⟩ | ⟨hb, hsv, -⟩
      · simp
      · simp
      · exact absurd ⟨rfl, hb, hsv⟩ hs
    | nop | crcInit | crcFeed | crcRead | statusRead => cases he; simp

/-- What a verdict does to the samples: it loads one, it starts a frame, or it leaves them. -/
theorem VerdictEffect.samples_cases {s v : State} {d : Option Decoded} (h : VerdictEffect s d v) :
    (∃ i x, d = some (.command (.loadSample i x)) ∧ v = s.writeSample i x) ∨
    (s.Starts d ∧ v = s.startFrame s.sampleFrame) ∨
    ((∀ i x, d ≠ some (.command (.loadSample i x))) ∧ ¬ s.Starts d ∧
      v.smp = s.smp ∧ v.sv = s.sv ∧ v.busy = s.busy) := by
  by_cases hl : ∃ i x, d = some (.command (.loadSample i x))
  · obtain ⟨i, x, rfl⟩ := hl
    exact .inl ⟨i, x, rfl, h.loadSample⟩
  · have hl : ∀ i x, d ≠ some (.command (.loadSample i x)) := fun i x hd => hl ⟨i, x, hd⟩
    by_cases hs : s.Starts d
    · exact .inr (.inl ⟨hs, h.of_starts hs⟩)
    · exact .inr (.inr ⟨hl, hs, h.samples_kept hl hs⟩)

@[simp] theorem State.sampleValid_startFrame (s : State) (f : Vector Byte 10) (i : BitVec 2) :
    (s.startFrame f).sampleValid i = false := by
  simp [State.sampleValid]

/-- The samples and valid bits of a state are those of any state with the same registers. -/
theorem State.sample_congr {s t : State} (hsmp : t.smp = s.smp) (hsv : t.sv = s.sv) (i : BitVec 2) :
    t.sample i = s.sample i ∧ t.sampleValid i = s.sampleValid i := by
  simp [State.sample, State.sampleValid, hsmp, hsv]

/-- A step without reset, for one index: it loads this sample, it starts a frame, or it leaves this sample and its valid
bit. -/
theorem step_sample {s t : State} (h : step s = .next t) (hr : s.rst = false) (i : BitVec 2) :
    (∃ x, s.presented.map decode = some (.command (.loadSample i x)) ∧ t.sample i = x ∧ t.sampleValid i = true) ∨
    ((∀ x, s.presented.map decode ≠ some (.command (.loadSample i x))) ∧ t.sample i = s.sample i ∧
      ((s.Starts (s.presented.map decode) ∧ t.sampleValid i = false) ∨
       (¬ s.Starts (s.presented.map decode) ∧ t.sampleValid i = s.sampleValid i))) := by
  obtain ⟨v, hv, hsmp, hsv, -⟩ := step_registers h hr
  obtain ⟨hsample, hvalid⟩ := State.sample_congr hsmp hsv i
  rw [hsample, hvalid]
  rcases hv.samples_cases with ⟨j, x, hd, rfl⟩ | ⟨hs, rfl⟩ | ⟨hl, hs, hsmp', hsv', -⟩
  · rw [hd]
    by_cases hij : i = j
    · subst hij
      exact .inl ⟨x, rfl, by simp, by simp⟩
    · exact .inr ⟨by simp [Ne.symm hij], by simp [hij], .inr ⟨by simp [State.Starts], by simp [hij]⟩⟩
  · exact .inr ⟨by simp [hs.1], rfl, .inl ⟨hs, by simp⟩⟩
  · obtain ⟨hsample', hvalid'⟩ := State.sample_congr hsmp' hsv' i
    exact .inr ⟨hl i, hsample', .inr ⟨hs, hvalid'⟩⟩

/-- `busy` rises only in a step that starts a frame (R12, R14). -/
theorem step_starts {s t : State} (h : step s = .next t) (hb : s.busy = false) (ht : t.busy = true) :
    s.Starts (s.presented.map decode) := by
  have hr : s.rst = false := by
    refine eq_false_of_ne_true fun hr => ?_
    rw [step_eq_resetCycle h hr] at ht
    cases ht
  obtain ⟨v, c, hv, he⟩ := step_verdictEffect h hr
  rw [State.edge_of_not_busy _ hb] at he
  cases he
  have hvb : v.busy = true := ht
  rcases hv.samples_cases with ⟨i, x, -, rfl⟩ | ⟨hs, -⟩ | ⟨-, -, -, -, hkept⟩
  · simp [hb] at hvb
  · exact hs
  · simp [hkept, hb] at hvb

/-- Settles O33: per index what a step does to the sample, who starts a frame, a reset cycle. -/
theorem validBitsFollowLoadsAndPacks : Obligations.ValidBitsFollowLoadsAndPacks := by
  refine ⟨fun s t i h hr => ?_, fun s t h hb ht => ?_, fun s t h hr => ?_, sv_eq_allValid_iff, rfl⟩
  · rcases step_sample h hr i with ⟨x, hd, hx, hvalid⟩ | ⟨hl, hkept, hcases⟩
    · refine ⟨fun y hy => ⟨hvalid, ?_⟩, fun hl => absurd hd (hl x)⟩
      rw [hd] at hy
      cases hy
      exact hx
    · refine ⟨fun y hy => absurd hy (hl y), fun _ => ⟨hkept, ?_⟩⟩
      rcases hcases with ⟨hs, hvalid⟩ | ⟨hs, hvalid⟩
      · rw [hvalid]
        exact (if_pos hs).symm
      · rw [hvalid]
        exact (if_neg hs).symm
  · obtain ⟨hd, -, hsv⟩ := step_starts h hb ht
    exact ⟨hd, hsv⟩
  · rw [step_eq_resetCycle h hr]
    rfl

end Sys2Proof.Machine
end

section
/-!
SUPPORT. The opcode map and the decoder (spec/30_encoding.md R54 to R56): what a word must be to spell a row, what the
decoder answers for such a word and for every other, and which words are accepted only to be recorded as errors.
-/

namespace Sys2Proof

/-! ## The rows of the opcode map, by fields (R54) -/

/-- The opcode of a command's row (R54, column `op`). -/
def Instr.opcode : Instr → BitVec 4
  | .nop => 0x0#4
  | .crcInit => 0x1#4
  | .crcFeed _ => 0x2#4
  | .crcRead => 0x3#4
  | .loadSample _ _ => 0x4#4
  | .pack => 0x5#4
  | .statusRead => 0x6#4

/-- The must-be-zero field of a command's row is zero in the word (R56). -/
def Instr.ReservedClear : Instr → Word → Prop
  | .crcFeed _, w => feedReserved w = 0#20
  | .loadSample _ _, w => rsvField w = 0#10
  | .nop, w | .crcInit, w | .crcRead, w | .pack, w | .statusRead, w => belowOp w = 0#28

/-- The same command with its operands taken from the word (R52, R53). -/
def Instr.withFields : Instr → Word → Instr
  | .crcFeed _, w => .crcFeed (byteField w)
  | .loadSample _ _, w => .loadSample (idxField w) (dataField w)
  | .nop, _ => .nop
  | .crcInit, _ => .crcInit
  | .crcRead, _ => .crcRead
  | .pack, _ => .pack
  | .statusRead, _ => .statusRead

@[simp] theorem Instr.row_withFields (i : Instr) (w : Word) : (i.withFields w).row = i.row := by
  cases i <;> rfl

/-- One command of each row, in the order of the map. -/
def Instr.perRow : List Instr :=
  [.nop, .crcInit, .crcFeed 0#8, .crcRead, .loadSample 0#2 0#16, .pack, .statusRead]

theorem opcodeRows_eq_map : opcodeRows = Instr.perRow.map Instr.row := rfl

/-- The rows of the map are the rows of the commands, whatever their operands. -/
theorem mem_opcodeRows {r : OpcodeRow} : r ∈ opcodeRows ↔ ∃ i : Instr, i.row = r := by
  constructor
  · intro h
    rw [opcodeRows_eq_map] at h
    obtain ⟨i, -, hi⟩ := List.mem_map.1 h
    exact ⟨i, hi⟩
  · rintro ⟨i, rfl⟩
    cases i <;> simp [opcodeRows, Instr.row]

/-- A mask that covers the opcode, and `m` below it, compares the opcode and those bits. -/
theorem and_mask_eq_iff (w : Word) (o : BitVec 4) (m : BitVec 28) :
    w &&& (0xF#4 ++ m) = o ++ 0#28 ↔ opField w = o ∧ belowOp w &&& m = 0#28 := by
  have hand : w &&& (0xF#4 ++ m) = opField w ++ (belowOp w &&& m) := by
    conv_lhs => rw [← word_eq_fields w]
    rw [BitVec.and_append, show (0xF#4 : BitVec 4) = BitVec.allOnes 4 from rfl, BitVec.and_allOnes]
  rw [hand]
  exact ⟨append_pieces, fun ⟨ho, hm⟩ => by rw [ho, hm]⟩

/-- A mask that covers the upper of two fields and not the lower compares the upper field. -/
theorem append_and_mask_eq_zero_iff {n m : Nat} (r : BitVec n) (f : BitVec m) :
    (r ++ f) &&& (BitVec.allOnes n ++ 0#m) = 0#n ++ 0#m ↔ r = 0#n := by
  rw [BitVec.and_append, BitVec.and_allOnes, BitVec.and_zero]
  exact ⟨fun h => (append_pieces h).1, fun h => by rw [h]⟩

/-- A word spells a command's row just when it has the row's opcode and a zero must-be-zero field (R54, R56). -/
theorem Instr.row_spells_iff (i : Instr) (w : Word) :
    i.row.spells w ↔ opField w = i.opcode ∧ i.ReservedClear w := by
  have bare (o : BitVec 4) : w &&& (0xF#4 ++ BitVec.allOnes 28) = o ++ 0#28 ↔ opField w = o ∧ belowOp w = 0#28 := by
    rw [and_mask_eq_iff, BitVec.and_allOnes]
  cases i with
  | crcFeed b =>
    refine (and_mask_eq_iff w 0x2#4 (BitVec.allOnes 20 ++ 0#8)).trans (and_congr_right fun _ => ?_)
    rw [← belowOp_eq_feed w]
    exact append_and_mask_eq_zero_iff (feedReserved w) (byteField w)
  | loadSample k v =>
    refine (and_mask_eq_iff w 0x4#4 (BitVec.allOnes 10 ++ 0#18)).trans (and_congr_right fun _ => ?_)
    rw [← belowOp_eq_load w]
    exact append_and_mask_eq_zero_iff (rsvField w) (idxField w ++ dataField w)
  | nop => exact bare 0x0#4
  | crcInit => exact bare 0x1#4
  | crcRead => exact bare 0x3#4
  | pack => exact bare 0x5#4
  | statusRead => exact bare 0x6#4

/-! ## The decoder's answers, by opcode and must-be-zero field (R55) -/

/-- An opcode is reserved or some command's (R51). -/
theorem opField_cases (w : Word) : 7 ≤ (opField w).toNat ∨ ∃ i : Instr, opField w = i.opcode := by
  have hall : ∀ o : BitVec 4, 7 ≤ o.toNat ∨ o ∈ Instr.perRow.map Instr.opcode := by decide
  refine (hall (opField w)).imp_right fun h => ?_
  obtain ⟨i, -, hi⟩ := List.mem_map.1 h
  exact ⟨i, hi.symm⟩

/-- No command's opcode is reserved (R51). -/
theorem Instr.opcode_le (i : Instr) : i.opcode.toNat ≤ 6 := by
  cases i <;> simp [Instr.opcode]

/-- A reserved opcode is illegal, whatever stands below it. -/
theorem decode_of_reserved_opcode {w : Word} (h : 7 ≤ (opField w).toNat) : decode w = .illegal .illegalOpcode := by
  unfold decode
  split
  case h_8 => rfl
  all_goals omega

/-- Under a command's opcode a zero must-be-zero field gives the command, with the word's operands. -/
theorem decode_of_clear {i : Instr} {w : Word} (ho : opField w = i.opcode) (hz : i.ReservedClear w) :
    decode w = .command (i.withFields w) := by
  rw [decode, ho]
  cases i <;> exact if_pos hz

/-- Under a command's opcode a nonzero must-be-zero field is illegal. -/
theorem decode_of_not_clear {i : Instr} {w : Word} (ho : opField w = i.opcode) (hz : ¬ i.ReservedClear w) :
    decode w = .illegal .reservedField := by
  rw [decode, ho]
  cases i <;> exact if_neg hz

/-- A word that spells a row decodes to the row's command, with the word's operands (R54). -/
theorem decode_of_spells {i : Instr} {w : Word} (h : i.row.spells w) : decode w = .command (i.withFields w) := by
  obtain ⟨ho, hz⟩ := (i.row_spells_iff w).1 h
  exact decode_of_clear ho hz

/-- A word of no row under a defined opcode has a must-be-zero bit set (R56). -/
theorem decode_of_spells_none {w : Word} (ho : (opField w).toNat ≤ 6) (h : ∀ i : Instr, ¬ i.row.spells w) :
    decode w = .illegal .reservedField := by
  rcases opField_cases w with hr | ⟨i, hi⟩
  · omega
  · exact decode_of_not_clear hi fun hz => h i ((i.row_spells_iff w).2 ⟨hi, hz⟩)

/-- A word that decodes to a command spells its row and carries its operands; and its opcode is a defined one. -/
theorem spells_of_decode {w : Word} {i : Instr} (h : decode w = .command i) :
    i.row.spells w ∧ i = i.withFields w ∧ (opField w).toNat ≤ 6 := by
  rcases opField_cases w with hr | ⟨j, hj⟩
  · rw [decode_of_reserved_opcode hr] at h
    cases h
  · by_cases hz : j.ReservedClear w
    · rw [decode_of_clear hj hz] at h
      cases h
      refine ⟨?_, ?_, hj ▸ j.opcode_le⟩
      · rw [Instr.row_withFields]
        exact (j.row_spells_iff w).2 ⟨hj, hz⟩
      · cases j <;> rfl
    · rw [decode_of_not_clear hj hz] at h
      cases h

/-- Two rows that one word spells are the same row. -/
theorem row_eq_of_spells {i j : Instr} {w : Word} (hi : i.row.spells w) (hj : j.row.spells w) : i.row = j.row := by
  have heq : i.withFields w = j.withFields w := by
    simpa [decode_of_spells hi] using decode_of_spells hj
  rw [← i.row_withFields w, heq, j.row_withFields]

/-! ## The obligations -/

/-- The rows have different mnemonics, so they are different rows. -/
theorem opcodeRows_nodup : opcodeRows.Nodup := by decide

/-- Settles O2: a row is some command's, a word spells it just when it decodes to that command, and a word decodes to one
thing only, so no word spells two rows. -/
theorem opcodeMapDecidesTheCommand : Obligations.OpcodeMapDecidesTheCommand := by
  refine ⟨rfl, rfl, by decide, ?disjoint, fun w i h => ⟨mem_opcodeRows.2 ⟨i, rfl⟩, (spells_of_decode h).1⟩, ?decodes,
    fun w b h => ?feed, fun w i v h => ?load, fun w h => ?illegal⟩
  case disjoint =>
    refine opcodeRows_nodup.imp_of_mem fun hr hq hne w ⟨hrw, hqw⟩ => hne ?_
    obtain ⟨i, rfl⟩ := mem_opcodeRows.1 hr
    obtain ⟨j, rfl⟩ := mem_opcodeRows.1 hq
    exact row_eq_of_spells hrw hqw
  case decodes =>
    intro w r hr hs
    obtain ⟨i, rfl⟩ := mem_opcodeRows.1 hr
    exact ⟨_, decode_of_spells hs, i.row_withFields w⟩
  case feed =>
    obtain ⟨-, hb, -⟩ := spells_of_decode h
    exact Instr.crcFeed.inj hb
  case load =>
    obtain ⟨-, hv, -⟩ := spells_of_decode h
    exact Instr.loadSample.inj hv
  case illegal =>
    cases hd : decode w with
    | command i => exact absurd (spells_of_decode hd).1 (h i.row (mem_opcodeRows.2 ⟨i, rfl⟩))
    | illegal c => exact ⟨c, rfl⟩

/-- An illegal word is accepted unless `rst` is high, and only recorded (R56, R101). -/
theorem illegal_accepted_and_recorded {w : Word} {c : Cause} (hd : decode w = .illegal c) (s : Machine.State) :
    (s.rst = false → s.cmdReady w = true) ∧ Machine.acceptWord w s = .next (s.raise c) :=
  ⟨fun hr => Machine.State.cmdReady_of_ne_pack hr (by simp [hd]), by simp [Machine.acceptWord, hd]⟩

/-- Settles O4: the decoder's answer for the two kinds of illegal words, each accepted and recorded. -/
theorem reservedWordsAreAcceptedAndOnlyRecorded : Obligations.ReservedWordsAreAcceptedAndOnlyRecorded := by
  refine ⟨fun s w h => illegal_accepted_and_recorded (decode_of_reserved_opcode h) s, fun s w ho h => ?_, fun w => ?_,
    fun w i h => ?_⟩
  · exact illegal_accepted_and_recorded
      (decode_of_spells_none ho fun i => h i.row (mem_opcodeRows.2 ⟨i, rfl⟩)) s
  · cases hd : decode w with
    | command i => exact .inl ⟨i, rfl⟩
    | illegal c =>
      cases c with
      | illegalOpcode => exact .inr (.inl rfl)
      | reservedField => exact .inr (.inr rfl)
      | packIncomplete => exact absurd hd (Machine.decode_ne_packIncomplete w)
  · obtain ⟨hs, -, ho⟩ := spells_of_decode h
    exact ⟨ho, i.row, mem_opcodeRows.2 ⟨i, rfl⟩, hs⟩

/-- Settles O3: the decoder's answer for a reserved opcode, and per command for its must-be-zero field. -/
theorem decoderGivesTheVerdictsOfItsPseudocode : Obligations.DecoderGivesTheVerdictsOfItsPseudocode := by
  intro w
  refine ⟨decode_of_reserved_opcode, fun ho hb => ?reserved, fun hb => ?bare, fun ho => ?feed, fun ho => ?load⟩
  case reserved =>
    simp only [List.mem_cons, List.not_mem_nil, or_false] at ho
    rcases ho with ho | ho | ho | ho | ho
    · exact decode_of_not_clear (i := .nop) ho hb
    · exact decode_of_not_clear (i := .crcInit) ho hb
    · exact decode_of_not_clear (i := .crcRead) ho hb
    · exact decode_of_not_clear (i := .pack) ho hb
    · exact decode_of_not_clear (i := .statusRead) ho hb
  case bare =>
    exact ⟨fun ho => decode_of_clear (i := .nop) ho hb, fun ho => decode_of_clear (i := .crcInit) ho hb,
      fun ho => decode_of_clear (i := .crcRead) ho hb, fun ho => decode_of_clear (i := .pack) ho hb,
      fun ho => decode_of_clear (i := .statusRead) ho hb⟩
  case feed =>
    split
    · exact decode_of_not_clear (i := .crcFeed 0#8) ho ‹_›
    · exact decode_of_clear (i := .crcFeed 0#8) ho (not_not.1 ‹_›)
  case load =>
    split
    · exact decode_of_not_clear (i := .loadSample 0#2 0#16) ho ‹_›
    · exact decode_of_clear (i := .loadSample 0#2 0#16) ho (not_not.1 ‹_›)

end Sys2Proof
end

section
/-!
SUPPORT. The CRC commands of spec/40_crc.md (R70 to R74): what each command makes of the state, what a list of commands
makes of it, and the two inputs on which the fold only shifts or gives zero.
-/

namespace Sys2Proof

/-- The opcode of a word is that of the command it decodes to (R51, R55). -/
theorem opField_of_decode {w : Word} {i : Instr} (h : decode w = .command i) : opField w = i.opcode :=
  ((i.row_spells_iff w).1 (spells_of_decode h).1).1

end Sys2Proof

namespace Sys2Proof.Machine

/-! ## The commands -/

@[simp] theorem exec_crcInit (s : State) : exec .crcInit s = .next (s.writeCrc Config.crcInitial) := rfl

@[simp] theorem exec_crcFeed (b : Byte) (s : State) :
    exec (.crcFeed b) s = .next (s.writeCrc (crcStep8 s.crcAcc b)) := rfl

@[simp] theorem exec_crcRead (s : State) : exec .crcRead s = .next (s.writeRdata s.crcAcc) := rfl

/-- The last of two writes of the accumulator stays. -/
@[simp] theorem State.writeCrc_writeCrc (s : State) (v w : Half) : (s.writeCrc v).writeCrc w = s.writeCrc w := rfl

/-- The last of two writes of `rdata` stays. -/
@[simp] theorem State.writeRdata_writeRdata (s : State) (v w : Half) :
    (s.writeRdata v).writeRdata w = s.writeRdata w := rfl

/-- A word with another command's opcode is accepted in every cycle without reset, illegal or not (R31). -/
theorem State.cmdReady_of_opField {s : State} {w : Word} (hr : s.rst = false) (hw : opField w ≠ Instr.pack.opcode) :
    s.cmdReady w = true :=
  State.cmdReady_of_ne_pack hr fun hd => hw (opField_of_decode hd)

/-! ## Lists of commands -/

theorem andThen_assoc (r : Result) (f g : State → Result) :
    andThen (andThen r f) g = andThen r fun s => andThen (f s) g := by
  cases r <;> rfl

@[simp] theorem execAll_nil (s : State) : execAll [] s = .next s := rfl

@[simp] theorem execAll_cons (i : Instr) (is : List Instr) (s : State) :
    execAll (i :: is) s = andThen (exec i s) (execAll is) := rfl

/-- A list of commands goes on from where its first part ends. -/
theorem execAll_append (is js : List Instr) (s : State) :
    execAll (is ++ js) s = andThen (execAll is s) (execAll js) := by
  induction is generalizing s with
  | nil => rfl
  | cons i is ih => simp only [List.cons_append, execAll_cons, andThen_assoc, funext ih]

/-- Feeding a sequence folds it into the accumulator, in order, and changes nothing else (R71, R74). -/
theorem execAll_map_crcFeed (bs : List Byte) (s : State) :
    execAll (bs.map .crcFeed) s = .next (s.writeCrc (crcFrom s.crcAcc bs)) := by
  induction bs generalizing s with
  | nil => rfl
  | cons b bs ih => simp [ih]

/-- The commands of CRC_BUF leave the sequence's crc16 in the accumulator and in `rdata` (R58, R74). -/
theorem execAll_crcBuf (bs : List Byte) (s : State) :
    execAll ([.crcInit] ++ bs.map .crcFeed ++ [.crcRead]) s =
      .next ((s.writeCrc (crc16 bs)).writeRdata (crc16 bs)) := by
  rw [List.append_assoc, execAll_append, execAll_cons, exec_crcInit, andThen_next, execAll_nil, andThen_next,
    execAll_append, execAll_map_crcFeed]
  rfl

/-! ## The fold where the byte meets the accumulator's low byte (R73) -/

/-- A byte equal to the whole accumulator cancels it. -/
theorem crcStep8_of_xor_eq_zero {a : Half} {b : Byte} (h : a ^^^ zext16 b = 0#16) : crcStep8 a b = 0#16 := by
  rw [crcStep8, h, crcBits_zero]

/-- A byte equal to the low byte clears it, so the eight iterations only shift. -/
theorem crcStep8_of_lowByte_xor_eq_zero {a : Half} {b : Byte} (h : lowByte a ^^^ b = 0#8) :
    crcStep8 a b = a >>> 8 := by
  have hclear : ∀ k < 8, (a ^^^ zext16 b).getLsbD k = false := by
    intro k hk
    have hbit := congrArg (BitVec.getLsbD · k) h
    simpa [lowByte, zext16, hk, Nat.lt_trans hk] using hbit
  have hbyte : zext16 b >>> 8 = 0#16 := by
    ext k hk
    simp [zext16]
  rw [crcStep8, crcBits_of_clear 8 hclear, BitVec.ushiftRight_xor_distrib, hbyte, BitVec.xor_zero]

/-! ## The obligations -/

/-- Settles O8: CRC_FEED's effect, its words by the decoder's answers for its row, the corners of the fold by the shift
and the cancellation. -/
theorem crcFeedFoldsItsByte : Obligations.CrcFeedFoldsItsByte := by
  refine ⟨fun s b => rfl, fun w hw => ?words, fun w ho hz => ?reserved, fun s w hr ho => ?ready, ?fixed,
    fun a b h => crcStep8_of_lowByte_xor_eq_zero h, ?shift, fun a b h => crcStep8_of_xor_eq_zero h, ?cancel,
    fun s b => execAll_map_crcFeed [b, b] s, by decide⟩
  case words => exact decode_of_spells (i := .crcFeed 0#8) hw
  case reserved =>
    have hd : decode w = .illegal .reservedField := decode_of_not_clear (i := .crcFeed 0#8) ho hz
    exact ⟨hd, fun s => ⟨_, (illegal_accepted_and_recorded hd s).2, s.raise_err _, s.raise_crcAcc _⟩⟩
  case ready => exact State.cmdReady_of_opField hr (by rw [ho]; decide)
  case fixed => exact crcStep8_of_xor_eq_zero (by decide)
  case shift => exact crcStep8_of_lowByte_xor_eq_zero (by decide)
  case cancel => exact crcStep8_of_xor_eq_zero (by decide)

/-- Settles O7: CRC_INIT's effect, and the decoder's answers for its opcode. -/
theorem crcInitSetsTheAccumulator : Obligations.CrcInitSetsTheAccumulator := by
  refine ⟨exec_crcInit, by decide, fun w ho hw => ?reserved, fun s hr => ?ready, rfl, fun s => ?twice⟩
  case reserved => exact decode_of_not_clear (i := .crcInit) ho (belowOp_ne_zero ho hw)
  case ready => exact State.cmdReady_of_opField hr (by decide)
  case twice => simp

/-- Sequence C-1 of spec/95_test_vectors.md section 2: the ASCII bytes of "123456789". -/
theorem crc16_check :
    crc16 [0x31#8, 0x32#8, 0x33#8, 0x34#8, 0x35#8, 0x36#8, 0x37#8, 0x38#8, 0x39#8] = 0x4B37#16 := by
  decide +kernel

/-- Settles O9: CRC_READ's effect alone and beside the other CRC commands, the decoder's answers for its opcode, and the
check value through CRC_BUF's commands. -/
theorem crcReadCopiesTheAccumulator : Obligations.CrcReadCopiesTheAccumulator := by
  refine ⟨exec_crcRead, by decide, fun w ho hw => ?reserved, fun s hr => ?ready, rfl, execAll_crcBuf [], fun s => ?twice,
    fun s b => ?goesOn, fun u0 u1 u2 u3 => (frame_crcOk u0 u1 u2 u3).1, fun s => ?check⟩
  case reserved => exact decode_of_not_clear (i := .crcRead) ho (belowOp_ne_zero ho hw)
  case ready => exact State.cmdReady_of_opField hr (by decide)
  case twice => simp
  case goesOn => rfl
  case check =>
    rw [execAll_crcBuf, crc16_check]
    rfl

end Sys2Proof.Machine
end

section
/-!
SUPPORT. The frame commands of spec/41_frame.md: LOAD_SAMPLE and loads in a row (R80), PACK's outcomes and its hold until
the frame in flight has left (R81), and the bytes of a frame (R82).
-/

namespace Sys2Proof.Machine

/-! ## Loads (R80) -/

@[simp] theorem exec_loadSample (i : BitVec 2) (v : Half) (s : State) :
    exec (.loadSample i v) s = .next (s.writeSample i v) := rfl

theorem setValid_setValid (sv : BitVec 4) (i : BitVec 2) : setValid (setValid sv i) i = setValid sv i := by
  rw [setValid, setValid, BitVec.or_assoc, BitVec.or_self]

theorem setValid_comm (sv : BitVec 4) (i j : BitVec 2) : setValid (setValid sv i) j = setValid (setValid sv j) i := by
  simp only [setValid, BitVec.or_assoc, BitVec.or_comm (1#4 <<< i.toNat)]

/-- The last of two loads of an index stays. -/
@[simp] theorem State.writeSample_writeSample (s : State) (i : BitVec 2) (v v' : Half) :
    (s.writeSample i v).writeSample i v' = s.writeSample i v' := by
  simp only [State.writeSample, setSample, Vector.set_set, setValid_setValid]

/-- Loads of different indices commute. -/
theorem State.writeSample_comm (s : State) {i j : BitVec 2} (v v' : Half) (h : i ≠ j) :
    (s.writeSample i v).writeSample j v' = (s.writeSample j v').writeSample i v := by
  have hne : i.toNat ≠ j.toNat := fun he => h (BitVec.eq_of_toNat_eq he)
  simp only [State.writeSample, setSample, Vector.set_comm v v' hne, setValid_comm s.sv i j]

/-- STATUS shows a valid bit at its place in the field SV (R21). -/
theorem State.status_sampleValid (s : State) (i : BitVec 2) : s.status.getLsbD (8 + i.toNat) = s.sampleValid i := by
  rw [State.sampleValid, ← s.status_sv, BitVec.getLsbD_extractLsb', decide_eq_true i.isLt, Bool.true_and]

/-- `s16` undoes `u16` on the range of a sample (R5). -/
theorem s16_u16 {n : Int} (hlo : -32768 ≤ n) (hhi : n ≤ 32767) : s16 (u16 n) = n :=
  BitVec.toInt_ofInt_eq_self (by decide) hlo (Int.lt_add_one_of_le hhi)

/-! ## PACK (R81) -/

theorem decode_packWord : decode 0x50000000#32 = .command .pack := by decide

/-- Without a frame in flight and without reset every word is accepted, PACK too (R31). -/
theorem State.cmdReady_of_not_busy {s : State} (w : Word) (hb : s.busy = false) (hr : s.rst = false) :
    s.cmdReady w = true := by
  refine eq_true_of_ne_false fun h => ?_
  simp [State.cmdReady_eq_false, hb, hr] at h

/-- A PACK is turned away while a frame is in flight (R31, R105). -/
theorem State.cmdReady_packWord_of_busy {s : State} (hb : s.busy = true) : s.cmdReady 0x50000000#32 = false :=
  State.cmdReady_eq_false.2 (.inr ⟨decode_packWord, hb⟩)

theorem exec_pack_of_incomplete {s : State} (hb : s.busy = false) (hs : s.sv ≠ allValid) :
    exec .pack s = .next (s.raise .packIncomplete) := by
  simp [exec, execPack, hb, hs]

theorem exec_pack_of_complete {s : State} (hb : s.busy = false) (hs : s.sv = allValid) :
    exec .pack s = .next (s.startFrame s.sampleFrame) := by
  simp [exec, execPack, hb, hs]

/-- The first error since reset is recorded with its cause (R101). -/
theorem State.raise_of_not_err {s : State} (c : Cause) (h : s.err = false) :
    s.raise c = { s with err := true, errCause := causeCode c } :=
  if_neg (by simp [h])

/-- A word that is turned away stays presented and the command part changes nothing (R105). -/
theorem commandPart_of_held {s : State} {w : Word} (hp : s.presented = some w) (hr : s.cmdReady w = false) :
    commandPart s = .next s := by
  simp [commandPart, hp, hr]

/-- A running cycle that holds its word and transfers a byte does the transfer and nothing else. -/
theorem step_of_held_transfer {s : State} {w : Word} {b : Byte} (h : s.running) (hp : s.presented = some w)
    (hr : s.cmdReady w = false) (ht : s.transfers = true) (hb : s.memRead s.txIdx = .ok b) :
    step s = .next (s.sendByte s.txIdx b).tick := by
  rw [step_of_running h (commandPart_of_held hp hr), txPart_sends s ht hb, andThen_next]

/-! ## The bytes of a frame (R82) -/

/-- A frame is its data bytes and their CRC, low byte first. -/
theorem frame_toList (u0 u1 u2 u3 : Half) :
    (frame u0 u1 u2 u3).toList = frameData u0 u1 u2 u3 ++ littleEndian (crc16 (frameData u0 u1 u2 u3)) := rfl

theorem frame_take_eight (u0 u1 u2 u3 : Half) : (frame u0 u1 u2 u3).toList.take 8 = frameData u0 u1 u2 u3 := rfl

/-! ## The obligations -/

/-- Settles O13: the load by the rules of the sample registers, loads in a row by the two laws of `writeSample`, its words
by the decoder's answers for its row. -/
theorem loadSampleWritesOneSample : Obligations.LoadSampleWritesOneSample := by
  refine ⟨fun s i v => ?load, fun w hw => ?words, fun w ho hz => ?reserved, fun s w hr ho => ?ready,
    fun s i v v' => ?again, fun s i j v v' hne => ?commute, fun n => s16_u16, fun s => ?printed⟩
  case load =>
    have hvalid (j : BitVec 2) := s.sampleValid_writeSample i j v
    refine ⟨_, exec_loadSample i v s, fun j => s.sample_writeSample i j v, hvalid, ?_, rfl⟩
    rw [State.status_sampleValid, hvalid, if_pos rfl]
  case words => exact decode_of_spells (i := .loadSample 0#2 0#16) hw
  case reserved =>
    have hd : decode w = .illegal .reservedField := decode_of_not_clear (i := .loadSample 0#2 0#16) ho hz
    exact ⟨hd, fun s => ⟨_, (illegal_accepted_and_recorded hd s).2, s.raise_err _, s.raise_smp _, s.raise_sv _⟩⟩
  case ready => exact State.cmdReady_of_opField hr (by rw [ho]; decide)
  case again => simp
  case commute => simp [s.writeSample_comm v v' hne]
  case printed => exact ⟨by decide, _, exec_loadSample _ _ s, by simp, by simp⟩

/-- Settles O14: PACK's outcomes by the rule for each, the hold in the cycle of byte 9 by the rule of a cycle that only
transfers. -/
theorem packHoldsRaisesOrStartsTheFrame : Obligations.PackHoldsRaisesOrStartsTheFrame := by
  refine ⟨fun s => State.cmdReady_packWord_of_busy, fun s => State.cmdReady_of_not_busy _,
    fun s => exec_pack_of_incomplete, fun s hb hs => ?starts, decode_packWord, fun w ho hw => ?reserved,
    fun s t hb hs he ht => ?second, fun s rest b hrun hb hk hready hread hin => ?lastByte, ?zeros, ?oneToFour⟩
  case starts => exact ⟨_, exec_pack_of_complete hb hs, Memory.holds_writeFrame _ _⟩
  case reserved => exact decode_of_not_clear (i := .pack) ho (belowOp_ne_zero ho hw)
  case second =>
    rw [exec_pack_of_complete hb hs] at ht
    cases ht
    exact (exec_pack_of_incomplete rfl (by simp [allValid])).trans (congrArg _ (State.raise_of_not_err _ he))
  case lastByte =>
    have hp : s.presented = some 0x50000000#32 := by simp [State.presented, hin]
    have htrans : s.transfers = true := by simp [State.transfers, State.txValid, hb, hrun.2, hready]
    have hmem : s.memRead s.txIdx = .ok b := State.memRead_eq_ok.2 (by simp [hk, hread])
    have hidle : (s.sendByte s.txIdx b).tick.busy = false := by simp [hk, Config.lastFrameIndex]
    exact ⟨_, step_of_held_transfer hrun hp (State.cmdReady_packWord_of_busy hb) htrans hmem, hidle, by simp,
      State.cmdReady_of_not_busy _ hidle⟩
  case zeros => decide +kernel
  case oneToFour => decide +kernel

/-- Settles O16: the data bytes stand first, so their CRC is that of the frame's first eight bytes. -/
theorem frameIsLittleEndianSamplesThenCrc : Obligations.FrameIsLittleEndianSamplesThenCrc := by
  intro u0 u1 u2 u3
  exact ⟨_, congrArg crc16 (frame_take_eight u0 u1 u2 u3).symm, frame_toList u0 u1 u2 u3⟩

end Sys2Proof.Machine
end

section
/-!
SUPPORT. NOP (spec/42_status.md R90): its command part beside that of a cycle with nothing presented, and what of a state
decides its cycle.
-/

namespace Sys2Proof.Machine

/-! ## NOP -/

@[simp] theorem exec_nop (s : State) : exec .nop s = .next s := rfl

theorem decode_nopWord : decode 0x00000000#32 = .command .nop := by decide

/-- With nothing presented the command part only moves on in the command list (R39). -/
theorem commandPart_of_idle {s : State} (hp : s.presented = none) : commandPart s = .next s.nextPresentation := by
  simp [commandPart, hp]

/-- With a NOP presented the command part only moves on in the command list (R90). -/
theorem commandPart_of_nop {s : State} (hr : s.rst = false) (hp : s.presented = some 0x00000000#32) :
    commandPart s = .next s.nextPresentation := by
  have hready : s.cmdReady 0x00000000#32 = true := State.cmdReady_of_ne_pack hr (by simp [decode_nopWord])
  simp [commandPart, hp, hready, acceptWord, decode_nopWord, recordRead]

/-! ## What decides a cycle -/

/-- The three kinds of cycle: reset; the command part, then the edge; a fault before the first reset edge (R40, R120). -/
theorem step_eq (s : State) :
    step s = if s.rst then .next s.resetCycle
      else if s.resetDone then andThen (commandPart s) s.edge else .fault .observedBeforeReset := rfl

/-- Two states step alike if they agree on which kind of cycle it is, on what reset makes of them, on the edge, and,
without reset, on the command part. -/
theorem step_congr {s t : State} (hrst : s.rst = t.rst) (hdone : s.resetDone = t.resetDone)
    (hreset : s.resetCycle = t.resetCycle) (hedge : s.edge = t.edge)
    (hpart : s.rst = false → commandPart s = commandPart t) : step s = step t := by
  rw [step_eq s, step_eq t, ← hrst, hdone, hreset, hedge]
  cases hr : s.rst with
  | true => rfl
  | false => rw [hpart hr]

/-! ## The obligation -/

/-- Settles O18: NOP's effect, the decoder's answers for its opcode, and the command part of a cycle with a NOP against
that of a cycle with nothing presented. -/
theorem nopChangesNothing : Obligations.NopChangesNothing := by
  refine ⟨exec_nop, decode_nopWord, fun w ho hw => ?reserved, fun s hr => ?ready, fun s rest => ?sameCycle⟩
  case reserved =>
    have hd : decode w = .illegal .reservedField := decode_of_not_clear (i := .nop) ho (belowOp_ne_zero ho hw)
    exact ⟨hd, fun s => ⟨_, (illegal_accepted_and_recorded hd s).2, s.raise_err _⟩⟩
  case ready => exact State.cmdReady_of_opField hr (by decide)
  case sameCycle =>
    refine step_congr rfl rfl rfl rfl fun hr => ?_
    have hnop : commandPart { s with cmdIn := some 0x00000000#32 :: rest } = .next { s with cmdIn := rest } :=
      commandPart_of_nop hr rfl
    have hidle : commandPart { s with cmdIn := none :: rest } = .next { s with cmdIn := rest } :=
      commandPart_of_idle rfl
    exact hnop.trans hidle.symm

end Sys2Proof.Machine
end

section
/-!
SUPPORT. Errors and the PACK hold (spec/60_exceptions.md R101, R104, R105): a running cycle by the verdict on its word,
whether accepted or held, and when the edge ends a frame.
-/

namespace Sys2Proof.Machine

/-! ## A running cycle by its verdict (R104) -/

/-- A later error is dropped (R101). -/
theorem State.raise_of_err {s : State} (c : Cause) (h : s.err = true) : s.raise c = s := if_pos h

theorem State.presented_of_cons {s : State} {p : Option Word} {rest : List (Option Word)} (hin : s.cmdIn = p :: rest) :
    s.presented = p := by
  rw [State.presented, hin, List.headD_cons]

/-- A running cycle that accepts its word takes it off the stream, applies its effect and goes on with the edge. -/
theorem step_of_accepted {s u : State} {w : Word} {rest : List (Option Word)} (h : s.running)
    (hin : s.cmdIn = some w :: rest) (hready : s.cmdReady w = true) (hu : acceptWord w s = .next u)
    (hkept : u.cmdIn = s.cmdIn) : step s = s.edge { u with cmdIn := rest } := by
  have hnext : u.nextPresentation = { u with cmdIn := rest } := by
    rw [State.nextPresentation, hkept, hin, List.tail_cons]
  have hpart : commandPart s = .next { u with cmdIn := rest } := by
    simp [commandPart, State.presented_of_cons hin, hready, hu, hnext]
  exact step_of_running h hpart

/-- A running cycle that accepts a command executes it on the state before the edge (R40). -/
theorem step_of_command {s u : State} {w : Word} {i : Instr} {rest : List (Option Word)} (h : s.running)
    (hin : s.cmdIn = some w :: rest) (hready : s.cmdReady w = true) (hd : decode w = .command i)
    (he : exec i s = .next u) : step s = s.edge { recordRead i u with cmdIn := rest } := by
  obtain ⟨hcmd, -⟩ := exec_env he
  have hu : acceptWord w s = .next (recordRead i u) := by simp [acceptWord, hd, he]
  exact step_of_accepted h hin hready hu ((recordRead_cmdIn i u).trans hcmd)

/-- A running cycle whose word raises a cause accepts the word and only records the cause (R101). -/
theorem step_of_raises {s : State} {w : Word} {c : Cause} {rest : List (Option Word)} (h : s.running)
    (hin : s.cmdIn = some w :: rest) (hc : s.Raises (some (decode w)) c) :
    s.cmdReady w = true ∧ step s = s.edge { s.raise c with cmdIn := rest } := by
  rcases hc with hd | ⟨hd, hb, hs, rfl⟩
  · obtain ⟨hready, hu⟩ := illegal_accepted_and_recorded (Option.some.inj hd) s
    exact ⟨hready h.2, step_of_accepted h hin (hready h.2) hu (s.raise_cmdIn c)⟩
  · have hready : s.cmdReady w = true := State.cmdReady_of_not_busy w hb h.2
    exact ⟨hready, step_of_command h hin hready (Option.some.inj hd) (exec_pack_of_incomplete hb hs)⟩

/-- A running cycle that holds its word is the edge alone (R105). -/
theorem step_of_held {s : State} {w : Word} {rest : List (Option Word)} (h : s.running)
    (hin : s.cmdIn = some w :: rest) (hheld : s.cmdReady w = false) : step s = s.edge s :=
  step_of_running h (commandPart_of_held (State.presented_of_cons hin) hheld)

/-! ## The end of a frame -/

/-- The edge ends a frame in flight exactly when it transfers the frame's last byte (R83). -/
theorem State.edge_ends_frame_iff {s u t : State} (h : s.edge u = .next t) (hb : u.busy = true) :
    t.busy = false ↔ s.transfers = true ∧ s.txIdx = Config.lastFrameIndex := by
  obtain ⟨v, hv, ht⟩ := andThen_eq_next.1 h
  cases ht
  cases txPart_spec hv with
  | stays hno => simp [hno, hb]
  | sends b hyes hread => simp [hyes, hb]

/-- While a frame is sent and without reset, a byte is transferred just when the sink is ready (R33). -/
theorem State.transfers_of_busy {s : State} (hb : s.busy = true) (hr : s.rst = false) : s.transfers = s.txReady := by
  simp [State.transfers, State.txValid, hb, hr]

/-! ## The obligations -/

/-- Settles O21: a word that raises a cause, a held word and an executed word, each by the rule of its cycle. -/
theorem oneVerdictPerWordInPriorityOrder : Obligations.OneVerdictPerWordInPriorityOrder := by
  intro s w rest hrun hin
  refine ⟨fun ho => ?opcode, fun ho hrow => ?reserved, fun hw hb => ?held, fun hw hb hs => ?incomplete,
    fun i hd hpack => ?executes, fun he c => State.raise_of_err c he⟩
  case opcode => exact (step_of_raises hrun hin (.inl (congrArg some (decode_of_reserved_opcode ho)))).2
  case reserved =>
    have hd : decode w = .illegal .reservedField :=
      decode_of_spells_none ho fun i => hrow i.row (mem_opcodeRows.2 ⟨i, rfl⟩)
    exact (step_of_raises hrun hin (.inl (congrArg some hd))).2
  case held =>
    subst hw
    exact step_of_held hrun hin (State.cmdReady_packWord_of_busy hb)
  case incomplete =>
    subst hw
    exact (step_of_raises hrun hin (.inr ⟨congrArg some decode_packWord, hb, hs, rfl⟩)).2
  case executes =>
    have hready : s.cmdReady w = true := by
      by_cases hi : i = .pack
      · exact State.cmdReady_of_not_busy w (hpack hi).1 hrun.2
      · exact State.cmdReady_of_ne_pack hrun.2 (by simpa [hd] using hi)
    obtain ⟨t, he⟩ := exec_next i s
    exact ⟨t, he, step_of_command hrun hin hready hd he⟩

/-- Settles O22: the held cycle is the edge alone, which keeps all but the tx port's state and ends the frame at
byte 9. -/
theorem heldPackWaitsAndChangesNothing : Obligations.HeldPackWaitsAndChangesNothing := by
  intro s t rest hb hin h
  have hheld : s.cmdReady 0x50000000#32 = false := State.cmdReady_packWord_of_busy hb
  refine ⟨hheld, fun hr => ?held, fun hr => ?reset⟩
  case held =>
    obtain ⟨hdone, -⟩ := step_edge h hr
    have hedge : s.edge s = .next t := (step_of_held ⟨hdone, hr⟩ hin hheld).symm.trans h
    obtain ⟨hcrc, hsmp, hsv, hfrm, herr, hcause, hrdata, -, hcmd, hout, -⟩ := State.edge_keeps hedge
    refine ⟨hcmd, herr, hcause, hcrc, hsmp, hsv, hrdata, hfrm, hout, ?_⟩
    rw [State.edge_ends_frame_iff hedge hb, State.transfers_of_busy hb hr, Config.lastFrameIndex]
  case reset =>
    rw [step_eq_resetCycle h hr]
    rfl

/-- Settles O23: the two cases of `raise`, the cycle of a word that raises a cause, and what a step does to the error
state. -/
theorem illegalCommandRecordsTheFirstCauseOnly : Obligations.IllegalCommandRecordsTheFirstCauseOnly := by
  refine ⟨fun s c => ⟨State.raise_of_err c, State.raise_of_not_err c⟩, fun s w c rest hrun hin hc => ?recorded,
    fun s t h => ⟨fun hr he => ?sticky, fun hr => ?reset⟩⟩
  case recorded =>
    have hraises : s.Raises (some (decode w)) c := hc.imp (congrArg some) (And.imp_left (congrArg some))
    obtain ⟨hready, hstep⟩ := step_of_raises hrun hin hraises
    refine ⟨hready, hstep, fun t ht => ?_⟩
    obtain ⟨-, -, -, -, herr, hcause, -, -, hcmd, -⟩ := State.edge_keeps (hstep.symm.trans ht)
    exact ⟨hcmd, herr.trans (s.raise_err c), hcause.trans (s.raise_errCause c)⟩
  case sticky =>
    rcases step_err h hr with ⟨-, herr, -⟩ | ⟨-, -, herr, -⟩
    · exact herr.trans he
    · exact herr
  case reset =>
    rw [step_eq_resetCycle h hr]
    rfl

end Sys2Proof.Machine
end

section
/-!
SUPPORT. Reset (spec/70_reset_and_hazards.md R120): the values it leaves, the ports while it is high, and what of a state a
reset cycle does not look at.
-/

namespace Sys2Proof.Machine

/-! ## The values after reset -/

/-- Every element of the block with a reset value holds it (R120), and no byte of the frame buffer holds a value. The sample
registers, which R120 leaves unspecified, are left out. -/
def State.HasResetValues (t : State) : Prop :=
  t.crcAcc = 0xFFFF#16 ∧ t.sv = 0b0000#4 ∧ (∀ k, Memory.read t.frm k = none) ∧ t.busy = false ∧ t.txIdx = 0#4 ∧
    t.err = false ∧ t.errCause = 0#2 ∧ t.rdata = 0x0000#16 ∧ t.resetDone = true

theorem State.reset_hasResetValues : State.reset.HasResetValues :=
  ⟨rfl, rfl, Memory.read_nil, rfl, rfl, rfl, rfl, rfl, rfl⟩

/-- A reset cycle sets the block's elements to those of the state after reset, whatever they were. -/
theorem State.resetCycle_hasResetValues (s : State) : s.resetCycle.HasResetValues := by
  simpa [State.HasResetValues] using State.reset_hasResetValues

/-! ## The ports in a reset cycle -/

/-- While `rst` is high no word is accepted (R31). -/
theorem State.cmdReady_of_rst {s : State} (w : Word) (hr : s.rst = true) : s.cmdReady w = false :=
  State.cmdReady_eq_false.2 (.inl hr)

/-- While `rst` is high no byte is offered (R33). -/
theorem State.txValid_of_rst {s : State} (hr : s.rst = true) : s.txValid = false := by
  simp [State.txValid, hr]

/-! ## The command presented in a reset cycle -/

/-- Of the command list a reset cycle keeps the rest, and nothing else of the next state depends on the list. -/
theorem State.resetCycle_withCmdIn (s : State) (ps : List (Option Word)) :
    ({ s with cmdIn := ps } : State).resetCycle = { s.resetCycle with cmdIn := ps.tail } := rfl

/-! ## The obligation -/

/-- Settles O35: each step with reset is the reset cycle, whose values and whose use of the command list are the rules
above; a look before the first reset by the rule of the ports. -/
theorem resetCycleGivesTheResetValues : Obligations.ResetCycleGivesTheResetValues := by
  refine ⟨fun s hr => ?values, fun s ps qs hr => ?noEffect, fun s w hd _ => State.outputs_before_reset w hd,
    State.reset_hasResetValues⟩
  case values =>
    exact ⟨fun w => State.cmdReady_of_rst w hr, State.txValid_of_rst hr, _, step_of_rst hr,
      s.resetCycle_hasResetValues⟩
  case noEffect =>
    refine ⟨_, _, step_of_rst hr, step_of_rst hr, ?_⟩
    rw [s.resetCycle_withCmdIn ps, s.resetCycle_withCmdIn qs]

end Sys2Proof.Machine
end

section
/-!
SUPPORT. The encoder against the decoder (spec/30_encoding.md R50 to R55), and the words of the assembler's forms as the
numbers of R58.
-/

namespace Sys2Proof

/-! ## The encoder inverts the decoder -/

/-- Every command's word spells the command's row (R54). -/
theorem row_spells_encode (i : Instr) : i.row.spells (encode i) := by
  cases i with
  | nop => exact Laws.SpellsItsRow.nop
  | crcInit => exact Laws.SpellsItsRow.crcInit
  | crcFeed b => exact Laws.SpellsItsRow.crcFeed b
  | crcRead => exact Laws.SpellsItsRow.crcRead
  | loadSample k v => exact Laws.SpellsItsRow.loadSample k v
  | pack => exact Laws.SpellsItsRow.pack
  | statusRead => exact Laws.SpellsItsRow.statusRead

/-- The operand fields of a command's word are the command's operands (R52, R53). -/
theorem Instr.withFields_encode (i : Instr) : i.withFields (encode i) = i := by
  cases i with
  | crcFeed b => exact congrArg Instr.crcFeed (feed_fields _ _ _).2
  | loadSample k v =>
    obtain ⟨-, hk, hv⟩ := load_fields 0x4#4 0#10 k v
    exact congrArg₂ Instr.loadSample hk hv
  | nop | crcInit | crcRead | pack | statusRead => rfl

theorem decode_encode (i : Instr) : decode (encode i) = .command i := by
  rw [decode_of_spells (row_spells_encode i), i.withFields_encode]

/-- A word that spells a command's row is the word of that command with the word's own operands: no bit of it is outside
the opcode, the zero field and the operands. -/
theorem encode_withFields {i : Instr} {w : Word} (h : i.row.spells w) : encode (i.withFields w) = w := by
  obtain ⟨ho, hz⟩ := (i.row_spells_iff w).1 h
  conv_rhs => rw [← word_eq_fields w, ho]
  cases i with
  | crcFeed b =>
    have hz : feedReserved w = 0#20 := hz
    rw [← belowOp_eq_feed w, hz]
    rfl
  | loadSample k v =>
    have hz : rsvField w = 0#10 := hz
    rw [← belowOp_eq_load w, hz]
    rfl
  | nop | crcInit | crcRead | pack | statusRead =>
    have hz : belowOp w = 0#28 := hz
    rw [hz]
    rfl

/-- Settles O1: a word that decodes to a command spells its row with its operands, and such a word is the encoding. -/
theorem decodeIsExactlyTheInverseOfEncode : Obligations.DecodeIsExactlyTheInverseOfEncode := by
  intro w i
  constructor
  · intro h
    obtain ⟨hs, hi, -⟩ := spells_of_decode h
    rw [hi, encode_withFields hs]
  · rintro rfl
    exact decode_encode i

/-- Settles O5: each word evaluated. -/
theorem specWordsDecodeAsTheTableSays : Obligations.SpecWordsDecodeAsTheTableSays := by
  unfold Obligations.SpecWordsDecodeAsTheTableSays
  decide

/-! ## The words of the assembler's forms, as numbers (R50, R58) -/

/-- Two fields side by side, as a number. -/
theorem toNat_append_eq {n m : Nat} (x : BitVec n) (y : BitVec m) : (x ++ y).toNat = x.toNat * 2 ^ m + y.toNat := by
  rw [BitVec.toNat_append, ← Nat.shiftLeft_add_eq_or_of_lt y.isLt, Nat.shiftLeft_eq]

theorem encode_crcFeed_toNat (b : Byte) : (encode (.crcFeed b)).toNat = 0x20000000 + b.toNat := by
  refine (toNat_append_eq 0x2#4 (0#20 ++ b)).trans ?_
  rw [toNat_append_eq 0#20 b]
  simp

theorem encode_loadSample_toNat (i : BitVec 2) (v : Half) :
    (encode (.loadSample i v)).toNat = 0x40000000 + i.toNat * 0x10000 + v.toNat := by
  refine (toNat_append_eq 0x4#4 (0#10 ++ (i ++ v))).trans ?_
  rw [toNat_append_eq 0#10 (i ++ v), toNat_append_eq i v]
  simp [Nat.add_assoc]

/-- The word of a CRC_FEED whose operand is in range. -/
theorem encode_crcFeed_ofInt {b : Int} (hlo : 0 ≤ b) (hhi : b ≤ 255) :
    encode (.crcFeed (BitVec.ofInt 8 b)) = BitVec.ofInt 32 (0x20000000 + b) := by
  apply BitVec.eq_of_toNat_eq
  rw [encode_crcFeed_toNat, BitVec.toNat_ofInt, BitVec.toNat_ofInt]
  omega

/-- The word of a LOAD_SAMPLE whose index is in range; the sample is taken modulo 2^16 (R5). -/
theorem encode_loadSample_ofInt {i : Int} (v : Int) (hlo : 0 ≤ i) (hhi : i ≤ 3) :
    encode (.loadSample (BitVec.ofInt 2 i) (BitVec.ofInt 16 v)) =
      BitVec.ofInt 32 (0x40000000 + i * 0x10000 + v % 0x10000) := by
  apply BitVec.eq_of_toNat_eq
  rw [encode_loadSample_toNat, BitVec.toNat_ofInt, BitVec.toNat_ofInt, BitVec.toNat_ofInt]
  omega

/-! ## The operand ranges as propositions -/

theorem isByteOperand_iff {b : Int} : isByteOperand b = true ↔ 0 ≤ b ∧ b ≤ 255 := by simp [isByteOperand]

theorem isIndexOperand_iff {i : Int} : isIndexOperand i = true ↔ 0 ≤ i ∧ i ≤ 3 := by simp [isIndexOperand]

theorem isSampleOperand_iff {v : Int} : isSampleOperand v = true ↔ -32768 ≤ v ∧ v ≤ 65535 := by
  simp [isSampleOperand]

theorem isSignedSample_iff {v : Int} : isSignedSample v = true ↔ -32768 ≤ v ∧ v ≤ 32767 := by
  simp [isSignedSample]

theorem isWordOperand_iff {w : Int} : isWordOperand w = true ↔ 0 ≤ w ∧ w ≤ 0xFFFFFFFF := by simp [isWordOperand]

/-- The operands of CRC_BUF are in range when every byte is. -/
theorem wellFormed_crcBuf_iff {bs : List Int} :
    (AsmLine.crcBuf bs).wellFormed = true ↔ ∀ b ∈ bs, 0 ≤ b ∧ b ≤ 255 := by
  simp only [AsmLine.wellFormed, List.all_eq_true, isByteOperand_iff]

/-- The operands of OUTPUT are in range when every sample is. -/
theorem wellFormed_output_iff {v0 v1 v2 v3 : Int} :
    (AsmLine.output v0 v1 v2 v3).wellFormed = true ↔ ∀ v ∈ [v0, v1, v2, v3], -32768 ≤ v ∧ v ≤ 32767 := by
  simp [AsmLine.wellFormed, isSignedSample_iff, and_assoc]

/-! ## The assembler -/

theorem assemble_of_wellFormed {a : AsmLine} (h : a.wellFormed = true) : assemble a = some a.words := if_pos h

theorem assemble_of_not_wellFormed {a : AsmLine} (h : ¬ a.wellFormed = true) : assemble a = none := if_neg h

/-- A line assembles to its words exactly under its range condition. -/
theorem assemble_eq_ite {a : AsmLine} {p : Prop} [Decidable p] {ws : List Word} (hp : a.wellFormed = true ↔ p)
    (hw : p → a.words = ws) : assemble a = if p then some ws else none := by
  split
  · rw [assemble_of_wellFormed (hp.2 ‹p›), hw ‹p›]
  · exact assemble_of_not_wellFormed (mt hp.1 ‹¬ p›)

theorem words_crcBuf {bs : List Int} (h : ∀ b ∈ bs, 0 ≤ b ∧ b ≤ 255) :
    (AsmLine.crcBuf bs).words =
      0x10000000#32 :: bs.map (fun b => BitVec.ofInt 32 (0x20000000 + b)) ++ [0x30000000#32] := by
  have hfeeds : bs.map (fun b => encode (.crcFeed (BitVec.ofInt 8 b))) =
      bs.map fun b => BitVec.ofInt 32 (0x20000000 + b) :=
    List.map_congr_left fun b hb => encode_crcFeed_ofInt (h b hb).1 (h b hb).2
  rw [AsmLine.words, hfeeds]
  rfl

theorem words_output (v0 v1 v2 v3 : Int) :
    (AsmLine.output v0 v1 v2 v3).words =
      [BitVec.ofInt 32 (0x40000000 + v0 % 0x10000), BitVec.ofInt 32 (0x40010000 + v1 % 0x10000),
        BitVec.ofInt 32 (0x40020000 + v2 % 0x10000), BitVec.ofInt 32 (0x40030000 + v3 % 0x10000), 0x50000000#32] := by
  have h0 := encode_loadSample_ofInt (i := 0) v0 (by decide) (by decide)
  have h1 := encode_loadSample_ofInt (i := 1) v1 (by decide) (by decide)
  have h2 := encode_loadSample_ofInt (i := 2) v2 (by decide) (by decide)
  have h3 := encode_loadSample_ofInt (i := 3) v3 (by decide) (by decide)
  exact congrArg₂ List.cons h0 (congrArg₂ List.cons h1 (congrArg₂ List.cons h2 (congrArg₂ List.cons h3 rfl)))

/-- Settles O6: per form its range condition and its words; a list of operands with one outside is refused. -/
theorem assemblerEncodesAndRefusesByRange : Obligations.AssemblerEncodesAndRefusesByRange := by
  refine ⟨by decide, by decide, by decide, by decide, by decide, fun b => ?feed, fun i v => ?load, fun w => ?word,
    fun bs hbs => ?buf, fun bs hbs => ?bufRefused, fun v0 v1 v2 v3 hv => ?output, fun v0 v1 v2 v3 hv => ?outputRefused⟩
  case feed =>
    exact assemble_eq_ite isByteOperand_iff fun hb => congrArg (· :: []) (encode_crcFeed_ofInt hb.1 hb.2)
  case load =>
    have hrange : (AsmLine.loadSample i v).wellFormed = true ↔ (0 ≤ i ∧ i ≤ 3) ∧ -32768 ≤ v ∧ v ≤ 65535 := by
      rw [AsmLine.wellFormed, Bool.and_eq_true, isIndexOperand_iff, isSampleOperand_iff]
    exact assemble_eq_ite hrange fun h => congrArg (· :: []) (encode_loadSample_ofInt v h.1.1 h.1.2)
  case word => exact assemble_eq_ite isWordOperand_iff fun _ => rfl
  case buf => rw [assemble_of_wellFormed (wellFormed_crcBuf_iff.2 hbs), words_crcBuf hbs]
  case bufRefused =>
    obtain ⟨b, hb, hout⟩ := hbs
    refine assemble_of_not_wellFormed fun h => ?_
    have hin := wellFormed_crcBuf_iff.1 h b hb
    omega
  case output => rw [assemble_of_wellFormed (wellFormed_output_iff.2 hv), words_output]
  case outputRefused =>
    obtain ⟨v, hv, hout⟩ := hv
    refine assemble_of_not_wellFormed fun h => ?_
    have hin := wellFormed_output_iff.1 h v hv
    omega

end Sys2Proof
end

section
/-!
SUPPORT. The laws of the CRC (spec/40_crc.md R74 to R77): the accumulator after a list of commands, the residue of a
sequence followed by its CRC, and that two bytes reach every value.
-/

namespace Sys2Proof.Machine

/-! ## The accumulator under a command (R10) -/

/-- A command other than CRC_INIT folds the byte it feeds, if any, into the accumulator. -/
theorem exec_crcAcc {i : Instr} {s t : State} (h : exec i s = .next t) (hi : i ≠ .crcInit) :
    t.crcAcc = crcFrom s.crcAcc (fedByte i).toList := by
  cases i with
  | crcInit => exact absurd rfl hi
  | pack => rcases exec_pack_cases h with ⟨-, rfl⟩ | ⟨-, -, rfl⟩ | ⟨-, -, rfl⟩ <;> simp [fedByte]
  | nop | crcFeed | crcRead | loadSample | statusRead => cases h; rfl

/-- A list of commands without CRC_INIT folds the bytes it feeds into the accumulator, in order (R76). -/
theorem execAll_crcAcc {is : List Instr} (hi : .crcInit ∉ is) (s : State) :
    ∃ t, execAll is s = .next t ∧ t.crcAcc = crcFrom s.crcAcc (is.filterMap fedByte) := by
  induction is generalizing s with
  | nil => exact ⟨s, rfl, rfl⟩
  | cons i is ih =>
    obtain ⟨hne, hrest⟩ := List.ne_and_not_mem_of_not_mem_cons hi
    obtain ⟨u, hu⟩ := exec_next i s
    obtain ⟨t, ht, hacc⟩ := ih hrest u
    refine ⟨t, by rw [execAll_cons, hu, andThen_next, ht], ?_⟩
    rw [hacc, exec_crcAcc hu hne.symm, ← crcFrom_append]
    cases hb : fedByte i <;> simp [hb]

/-! ## Bytes and halves, bit by bit (R35) -/

@[simp] theorem getLsbD_zext16 (b : Byte) (k : Nat) : (zext16 b).getLsbD k = b.getLsbD k := by
  rw [zext16, BitVec.getLsbD_setWidth, Bool.and_eq_right_iff_imp]
  intro hk
  have := BitVec.lt_of_getLsbD hk
  simp only [decide_eq_true_eq]
  omega

@[simp] theorem getLsbD_lowByte (v : Half) (k : Nat) :
    (lowByte v).getLsbD k = (decide (k < 8) && v.getLsbD k) := by
  rw [lowByte, BitVec.getLsbD_extractLsb', Nat.zero_add]

@[simp] theorem getLsbD_highByte (v : Half) (k : Nat) :
    (highByte v).getLsbD k = (decide (k < 8) && v.getLsbD (8 + k)) :=
  BitVec.getLsbD_extractLsb' 8 8 v k

/-- The high byte alone is the value shifted down by a byte. -/
theorem zext16_highByte (v : Half) : zext16 (highByte v) = v >>> 8 := by
  refine BitVec.eq_of_getLsbD_eq fun k hk => ?_
  rw [getLsbD_zext16, getLsbD_highByte, BitVec.getLsbD_ushiftRight]
  by_cases h8 : k < 8
  · simp [h8]
  · simp [h8, BitVec.getLsbD_of_ge v (8 + k) (by omega)]

/-- A byte moved up by a byte and down again. -/
theorem zext16_shiftLeft_ushiftRight (b : Byte) : zext16 b <<< 8 >>> 8 = zext16 b := by
  refine BitVec.eq_of_getLsbD_eq fun k hk => ?_
  rw [BitVec.getLsbD_ushiftRight, BitVec.getLsbD_shiftLeft, getLsbD_zext16, getLsbD_zext16]
  by_cases h8 : k < 8
  · simp [show 8 + k < 16 by omega]
  · simp [BitVec.getLsbD_of_ge b k (by omega)]

/-- A 16-bit value is its low byte and, above it, its high byte. -/
theorem lowByte_xor_highByte (v : Half) : zext16 (lowByte v) ^^^ zext16 (highByte v) <<< 8 = v := by
  refine BitVec.eq_of_getLsbD_eq fun k hk => ?_
  rw [BitVec.getLsbD_xor, BitVec.getLsbD_shiftLeft, getLsbD_zext16, getLsbD_zext16, getLsbD_lowByte, getLsbD_highByte]
  by_cases h8 : k < 8
  · simp [h8]
  · simp [h8, hk, show k - 8 < 8 by omega, show 8 + (k - 8) = k by omega]

theorem highByte_append_lowByte (v : Half) : highByte v ++ lowByte v = v := by
  refine BitVec.eq_of_getLsbD_eq fun k hk => ?_
  rw [BitVec.getLsbD_append, getLsbD_lowByte, getLsbD_highByte]
  by_cases h8 : k < 8
  · simp [h8]
  · simp [h8, show k - 8 < 8 by omega, show 8 + (k - 8) = k by omega]

/-! ## The residue (R77) -/

theorem crcStep8_lowByte (a : Half) : crcStep8 a (lowByte a) = a >>> 8 :=
  crcStep8_of_lowByte_xor_eq_zero BitVec.xor_self

/-- Feeding the accumulator its own two bytes, low byte first, clears it: the low byte shifts it down to its high byte,
which the high byte cancels. -/
theorem crcFrom_littleEndian_self (a : Half) : crcFrom a (littleEndian a) = 0#16 := by
  have hcancel : a >>> 8 ^^^ zext16 (highByte a) = 0#16 := by rw [zext16_highByte, BitVec.xor_self]
  calc crcFrom a (littleEndian a) = crcStep8 (crcStep8 a (lowByte a)) (highByte a) := rfl
    _ = crcStep8 (a >>> 8) (highByte a) := by rw [crcStep8_lowByte]
    _ = 0#16 := crcStep8_of_xor_eq_zero hcancel

/-- A sequence followed by its CRC has CRC 0. -/
theorem crc16_append_crc (bs : List Byte) : crc16 (bs ++ littleEndian (crc16 bs)) = 0#16 :=
  (crcFrom_append _ _ _).trans (crcFrom_littleEndian_self _)

theorem crc16_frame (u0 u1 u2 u3 : Half) : crc16 (frame u0 u1 u2 u3).toList = 0#16 := by
  rw [frame_toList, crc16_append_crc]

/-! ## Every value is reachable (R75) -/

theorem crcBits_add (m n : Nat) (a : Half) : crcBits (m + n) a = crcBits n (crcBits m a) := by
  induction m generalizing a with
  | zero => rw [Nat.zero_add, crcBits]
  | succ m ih => rw [Nat.succ_add, crcBits, ih, crcBits]

/-- An iteration only shifts what is XORed in above the low bit. -/
theorem crcBit_xor_of_even (a : Half) {d : Half} (h : d.getLsbD 0 = false) :
    crcBit (a ^^^ d) = crcBit a ^^^ d >>> 1 := by
  simp only [crcBit, BitVec.getLsbD_xor, h, Bool.xor_false, BitVec.ushiftRight_xor_distrib]
  split
  · rw [BitVec.xor_assoc, BitVec.xor_comm (d >>> 1), ← BitVec.xor_assoc]
  · rfl

/-- `n` iterations only shift what is XORed in above the low `n` bits. -/
theorem crcBits_xor_of_clear (n : Nat) (a : Half) {d : Half} (h : ∀ k < n, d.getLsbD k = false) :
    crcBits n (a ^^^ d) = crcBits n a ^^^ d >>> n := by
  induction n generalizing a d with
  | zero => simp [crcBits]
  | succ n ih =>
    have hshift : ∀ k < n, (d >>> 1).getLsbD k = false := fun k hk => by
      rw [BitVec.getLsbD_ushiftRight]
      exact h (1 + k) (by omega)
    rw [crcBits, crcBit_xor_of_even a (h 0 n.succ_pos), ih _ hshift, crcBits, ← BitVec.shiftRight_add, Nat.add_comm]

/-- Feeding two bytes is sixteen iterations over the accumulator XORed with both, the second one above the first. -/
theorem crcStep8_crcStep8 (a : Half) (b c : Byte) :
    crcStep8 (crcStep8 a b) c = crcBits 16 (a ^^^ zext16 b ^^^ zext16 c <<< 8) := by
  have hclear : ∀ k < 8, (zext16 c <<< 8).getLsbD k = false := fun k hk => by simp [hk]
  rw [crcBits_add 8 8, crcBits_xor_of_clear 8 _ hclear, zext16_shiftLeft_ushiftRight]
  rfl

/-- The value whose iteration gives `v`: the polynomial's top bit is set, so the top bit of `v` says whether the
iteration XORed it in. -/
def crcUnbit (v : Half) : Half :=
  if v.getLsbD 15 then (v ^^^ Config.polynomial) <<< 1 ||| 1#16 else v <<< 1

/-- Shifting up and down again drops a clear top bit only, whatever low bit was put in. -/
theorem shiftLeft_or_ushiftRight {v b : Half} (h : v.getLsbD 15 = false) (hb : b >>> 1 = 0#16) :
    (v <<< 1 ||| b) >>> 1 = v := by
  rw [BitVec.ushiftRight_or_distrib, hb, BitVec.or_zero]
  refine BitVec.eq_of_getLsbD_eq fun k hk => ?_
  rw [BitVec.getLsbD_ushiftRight, BitVec.getLsbD_shiftLeft]
  by_cases h15 : k = 15
  · rw [h15, h]
    rfl
  · simp [show 1 + k < 16 by omega]

theorem crcBit_crcUnbit (v : Half) : crcBit (crcUnbit v) = v := by
  unfold crcUnbit
  split
  · have htop : (v ^^^ Config.polynomial).getLsbD 15 = false := by simp [*, Config.polynomial]
    have hlow : ((v ^^^ Config.polynomial) <<< 1 ||| 1#16).getLsbD 0 = true := by simp
    rw [crcBit, if_pos hlow, shiftLeft_or_ushiftRight htop rfl, BitVec.xor_assoc, BitVec.xor_self, BitVec.xor_zero]
  · rw [crcBit_of_even (by simp), ← BitVec.or_zero (x := v <<< 1)]
    exact shiftLeft_or_ushiftRight (eq_false_of_ne_true ‹_›) rfl

/-- Iterations reach every value. -/
theorem crcBits_surjective (n : Nat) (v : Half) : ∃ a, crcBits n a = v := by
  induction n with
  | zero => exact ⟨v, rfl⟩
  | succ n ih =>
    obtain ⟨a, ha⟩ := ih
    exact ⟨crcUnbit a, by rw [crcBits, crcBit_crcUnbit, ha]⟩

/-- Two bytes take the accumulator from any value to any value. -/
theorem exists_crcFrom_two (a v : Half) : ∃ b c : Byte, crcFrom a [b, c] = v := by
  obtain ⟨x, hx⟩ := crcBits_surjective 16 v
  refine ⟨lowByte (a ^^^ x), highByte (a ^^^ x), ?_⟩
  rw [crcFrom_cons, crcFrom_cons, crcFrom_nil, crcStep8_crcStep8, BitVec.xor_assoc, lowByte_xor_highByte,
    ← BitVec.xor_assoc, BitVec.xor_self, BitVec.zero_xor, hx]

/-! ## The obligations -/

/-- Settles O10: the fold of the bytes fed by any list of commands, CRC_BUF's commands, and the fold going on. -/
theorem crcAccumulatorIsTheCrc16OfTheBytesFed : Obligations.CrcAccumulatorIsTheCrc16OfTheBytesFed := by
  refine ⟨fun is s hi => execAll_crcAcc hi (s.writeCrc Config.crcInitial), execAll_crcBuf, fun bs cs s hs => ?_, rfl,
    by decide +kernel⟩
  rw [execAll_map_crcFeed, hs, crc16, crc16, crcFrom_append]
  rfl

/-- Settles O11: the residue law, for a sequence, for a frame, and through CRC_BUF's commands. -/
theorem crcResidueOfAWholeFrameIsZero : Obligations.CrcResidueOfAWholeFrameIsZero := by
  refine ⟨crc16_append_crc, crc16_frame, fun u0 u1 u2 u3 s => ?_⟩
  have hbuf := execAll_crcBuf (frame u0 u1 u2 u3).toList s
  rw [crc16_frame] at hbuf
  exact hbuf

/-- Settles O12: the two bytes that undo sixteen iterations. -/
theorem everyAccumulatorValueIsReachable : Obligations.EveryAccumulatorValueIsReachable := by
  intro s v
  obtain ⟨b, c, h⟩ := exists_crcFrom_two s.crcAcc v
  refine ⟨b, c, ?_⟩
  rw [← h]
  exact execAll_map_crcFeed [b, c] s

/-! ## The samples in a frame (R85) -/

/-- Joining the two bytes of a sample's pattern gives the sample back. -/
theorem s16_bytes_u16 {n : Int} (h : -32768 ≤ n ∧ n ≤ 32767) :
    s16 (highByte (u16 n) ++ lowByte (u16 n)) = n := by
  rw [highByte_append_lowByte, s16_u16 h.1 h.2]

/-- Settles O17: each sample stands in the frame as its two bytes. -/
theorem signedSamplesSurviveTheFrame : Obligations.SignedSamplesSurviveTheFrame := by
  refine ⟨fun s0 s1 s2 s3 h => ?_, by decide, by decide⟩
  simp only [List.forall_mem_cons] at h
  obtain ⟨h0, h1, h2, h3, -⟩ := h
  exact ⟨s16_bytes_u16 h0, s16_bytes_u16 h1, s16_bytes_u16 h2, s16_bytes_u16 h3⟩

end Sys2Proof.Machine
end

section
/-!
SUPPORT. The cycle (spec/20_memory.md R31 to R40): the edge with and without a transfer, what the ports show, and who
writes the accumulator and the frame buffer.
-/

namespace Sys2Proof.Machine

/-! ## The edge -/

/-- A byte is transferred when one is offered and the sink takes it (R33). -/
theorem State.transfers_eq_true_iff {s : State} :
    s.transfers = true ↔ s.busy = true ∧ s.rst = false ∧ s.txReady = true := by
  simp [State.transfers, State.txValid, and_assoc]

/-- Without a transfer the edge is the clock's alone. -/
theorem State.edge_of_not_transfers {s : State} (u : State) (h : s.transfers = false) : s.edge u = .next u.tick := by
  rw [State.edge, txPart_stays u h, andThen_next]

/-- An edge with a transfer sends the byte at `tx_idx`. -/
theorem State.edge_of_transfers {s : State} (u : State) {b : Byte} (h : s.transfers = true)
    (hb : s.memRead s.txIdx = .ok b) : s.edge u = .next (u.sendByte s.txIdx b).tick := by
  rw [State.edge, txPart_sends u h hb, andThen_next]

/-- An edge to a next state transferred nothing, or a byte that is there. -/
theorem State.edge_cases {s u t : State} (h : s.edge u = .next t) :
    (s.transfers = false ∧ t = u.tick) ∨
    (s.transfers = true ∧ ∃ b, s.memRead s.txIdx = .ok b ∧ t = (u.sendByte s.txIdx b).tick) := by
  obtain ⟨v, hv, ht⟩ := andThen_eq_next.1 h
  cases ht
  cases txPart_spec hv with
  | stays hno => exact .inl ⟨hno, rfl⟩
  | sends b hyes hread => exact .inr ⟨hyes, b, hread, rfl⟩

/-- A running cycle is the edge after one of the command parts. -/
theorem step_eq_edge {s : State} (h : s.running) : ∃ u, CommandPart s u ∧ step s = s.edge u := by
  obtain ⟨u, hu, hc⟩ := commandPart_spec s
  exact ⟨u, hc, step_of_running h hu⟩

/-- A running cycle with nothing presented is the edge alone (R39). -/
theorem step_of_idle {s : State} (h : s.running) (hp : s.presented = none) : step s = s.edge s.nextPresentation :=
  step_of_running h (commandPart_of_idle hp)

/-! ## The obligations on the cycle -/

/-- Settles O15: the first branch of PACK, and the command part of a held word. -/
theorem packMeaningWhileBusyIsTheUnchangedState : Obligations.PackMeaningWhileBusyIsTheUnchangedState :=
  ⟨fun _ hb => if_pos hb,
    fun _ _ hb hin => commandPart_of_held (State.presented_of_cons hin) (State.cmdReady_packWord_of_busy hb)⟩

/-- Settles O20: a command that is not held is accepted; without a transfer the edge is the clock's alone. -/
theorem stepRunsTheDecodedCommand : Obligations.StepRunsTheDecodedCommand := by
  intro s t w i rest hrun hin hd hheld he
  have hready : s.cmdReady w = true := by
    refine eq_true_of_ne_false fun h => hheld ?_
    rw [State.cmdReady_eq_false, hd] at h
    simpa [hrun.2] using h
  have hstep := step_of_command hrun hin hready hd he
  refine ⟨hstep, fun hno => ?_⟩
  obtain ⟨-, htx, hrst, hcycle, -⟩ := exec_env he
  rw [hstep, State.edge_of_not_transfers _ hno, State.tick]
  simp [htx, hrst, hcycle]

/-- Settles O25: with nothing presented and nothing transferred only the clock edge is left. -/
theorem idleCycleChangesNothing : Obligations.IdleCycleChangesNothing := by
  intro s hrun hp hno
  rw [step_of_idle hrun hp, State.edge_of_not_transfers _ hno]
  rfl

/-! ## The tx transfer (R83) -/

/-- While the sink is not ready a step keeps the frame in flight where it is. -/
theorem step_of_unready {s t : State} (h : step s = .next t) (hr : s.rst = false) (hb : s.busy = true)
    (hready : s.txReady = false) : t.frm = s.frm ∧ t.busy = true ∧ t.txIdx = s.txIdx ∧ t.txOut = s.txOut := by
  obtain ⟨-, u, hu, he⟩ := step_edge h hr
  obtain ⟨hfrm, hbusy, hidx⟩ := hu.busy hb
  obtain ⟨-, -, -, hout, -, -⟩ := hu.env
  rw [State.edge_of_not_transfers u ((State.transfers_of_busy hb hr).trans hready)] at he
  cases he
  exact ⟨hfrm, hbusy, hidx, hout⟩

/-- While the sink is ready a step sends the byte of the frame in flight at `tx_idx` and moves on, or ends the frame. -/
theorem step_of_ready {s t : State} (h : step s = .next t) (hr : s.rst = false) (hb : s.busy = true)
    (hready : s.txReady = true) :
    t.frm = s.frm ∧ (∃ b, s.memRead s.txIdx = .ok b ∧ t.txOut = s.txOut ++ [b]) ∧
      t.busy = decide (s.txIdx ≠ 9#4) ∧ t.txIdx = if s.txIdx = 9#4 then 0#4 else s.txIdx + 1#4 := by
  obtain ⟨-, u, hu, he⟩ := step_edge h hr
  obtain ⟨hfrm, hbusy, -⟩ := hu.busy hb
  obtain ⟨-, -, -, hout, -, -⟩ := hu.env
  rcases State.edge_cases he with ⟨hno, -⟩ | ⟨-, b, hread, rfl⟩
  · simp [State.transfers_of_busy hb hr, hready] at hno
  · refine ⟨by simpa using hfrm, ⟨b, hread, by simp [hout]⟩, ?_, u.sendByte_txIdx _ b⟩
    by_cases h9 : s.txIdx = 9#4 <;> simp [Config.lastFrameIndex, h9, hbusy]

/-- A step without a transfer sends nothing. -/
theorem step_txOut {s t : State} (h : step s = .next t) (hno : s.transfers = false) : t.txOut = s.txOut := by
  cases hr : s.rst with
  | true =>
    rw [step_eq_resetCycle h hr]
    rfl
  | false =>
    obtain ⟨-, u, hu, he⟩ := step_edge h hr
    obtain ⟨-, -, -, hout, -, -⟩ := hu.env
    rw [State.edge_of_not_transfers u hno] at he
    cases he
    exact hout

/-- Settles O26: an idle cycle with a transfer; what a step does to a frame in flight; a step without a transfer. -/
theorem txTransferEmitsOneByteAndMovesOn : Obligations.TxTransferEmitsOneByteAndMovesOn := by
  refine ⟨fun s b hrun hin hb hready hk hread => ?exact, fun s t h hr hb hready => ?sends, fun s t h hno => ?silent,
    fun s t h hr hb hready => ?waits⟩
  case exact =>
    have htrans : s.transfers = true := State.transfers_eq_true_iff.2 ⟨hb, hrun.2, hready⟩
    have hmem : s.memRead s.txIdx = .ok b := State.memRead_eq_ok.2 ⟨by omega, hread⟩
    have hp : s.presented = none := by rw [State.presented, hin, List.headD_nil]
    rw [step_of_idle hrun hp, State.edge_of_transfers _ htrans hmem, State.sendByte, Config.lastFrameIndex]
    split <;> simp [State.tick, State.nextPresentation, *]
  case sends =>
    obtain ⟨hfrm, ⟨b, hmem, hout⟩, hbusy, hidx⟩ := step_of_ready h hr hb hready
    obtain ⟨hk, hread⟩ := State.memRead_eq_ok.1 hmem
    exact ⟨hfrm, by omega, ⟨b, hread, hout⟩, hbusy, hidx⟩
  case silent =>
    refine step_txOut h (eq_false_of_ne_true fun htrans => ?_)
    obtain ⟨hb, hr, hready⟩ := State.transfers_eq_true_iff.1 htrans
    simp [hb, hr, hready] at hno
  case waits =>
    obtain ⟨hfrm, hbusy, hidx, -⟩ := step_of_unready h hr hb hready
    exact ⟨hfrm, hbusy, hidx⟩

/-! ## Who writes the accumulator and the frame buffer (R10, R13) -/

/-- A verdict that starts no frame leaves the frame buffer. -/
theorem VerdictEffect.frm_kept {s v : State} {d : Option Decoded} (h : VerdictEffect s d v) (hs : ¬ s.Starts d) :
    v.frm = s.frm := by
  cases h with
  | idle => rfl
  | illegal c => simp
  | command i u he =>
    cases i with
    | pack =>
      rcases exec_pack_cases he with ⟨-, rfl⟩ | ⟨-, -, rfl⟩ | ⟨hb, hsv, -⟩
      · simp
      · simp
      · exact absurd ⟨rfl, hb, hsv⟩ hs
    | nop | crcInit | crcFeed | crcRead | loadSample | statusRead => cases he; simp

/-- Settles O34: a step leaves in the buffer what the verdict's effect left there: the frame of a PACK that starts one, or
the old contents. -/
theorem onlyAnAcceptedPackWritesTheFrame : Obligations.OnlyAnAcceptedPackWritesTheFrame := by
  intro s t h hr
  obtain ⟨v, c, hv, he⟩ := step_verdictEffect h hr
  obtain ⟨-, -, -, hfrm, -⟩ := State.edge_keeps he
  refine ⟨fun hb => ?_, fun hd hb hsv => ?_, fun hs => hfrm.trans (hv.frm_kept hs)⟩
  · exact hfrm.trans (hv.frm_kept fun ⟨_, hnb, _⟩ => by simp [hb] at hnb)
  · rw [hfrm, hv.of_starts ⟨hd, hb, hsv⟩]
    exact Memory.holds_writeFrame _ _

/-- After a step without reset the accumulator stands as the verdict's effect left it. -/
theorem step_crcAcc {s t : State} (h : step s = .next t) (hr : s.rst = false) :
    ∃ v, VerdictEffect s (s.presented.map decode) v ∧ t.crcAcc = v.crcAcc := by
  obtain ⟨v, c, hv, he⟩ := step_verdictEffect h hr
  obtain ⟨hacc, -⟩ := State.edge_keeps he
  exact ⟨v, hv, hacc⟩

/-- The accumulator after a command that is not CRC_INIT: the byte it feeds, if any, is folded in. -/
theorem VerdictEffect.crcAcc {s v : State} {i : Instr} (h : VerdictEffect s (some (.command i)) v)
    (hi : i ≠ .crcInit) : v.crcAcc = crcFrom s.crcAcc (fedByte i).toList := by
  cases h with
  | command _ u he => exact (recordRead_crcAcc i u).trans (exec_crcAcc he hi)

/-- CRC_INIT sets the accumulator. -/
theorem VerdictEffect.crcInit {s v : State} (h : VerdictEffect s (some (.command .crcInit)) v) :
    v.crcAcc = Config.crcInitial := by
  cases h with
  | command _ u he => cases he; rfl

/-- Settles O31: a step leaves in the accumulator what the verdict's effect left there. -/
theorem onlyInitAndFeedWriteTheAccumulator : Obligations.OnlyInitAndFeedWriteTheAccumulator := by
  intro s t h hr
  obtain ⟨v, hv, hacc⟩ := step_crcAcc h hr
  rw [hacc]
  cases hp : s.presented with
  | none =>
    rw [hp] at hv
    cases hv
    rfl
  | some w =>
    rw [hp, Option.map_some] at hv
    cases hd : decode w with
    | illegal c =>
      rw [hd] at hv
      cases hv
      simp [hd]
    | command i =>
      rw [hd] at hv
      simp only [hd]
      cases i with
      | crcInit => exact hv.crcInit
      | nop | crcFeed | crcRead | loadSample | pack | statusRead => exact hv.crcAcc (by simp)

end Sys2Proof.Machine
end

section
/-!
SUPPORT. The invariants of spec/10_state.md R22, and that what was sent is whole frames (R2, R84): the state after reset
meets them and every step keeps them; and what follows for the ports and for stops.
-/

namespace Sys2Proof.Machine

/-! ## The state invariants -/

/-- The invariants speak of the tx port's state, the frame buffer and the error state only. -/
theorem State.Inv.congr {s t : State} (h : s.Inv) (hfrm : t.frm = s.frm) (hbusy : t.busy = s.busy)
    (hidx : t.txIdx = s.txIdx) (herr : t.err = s.err) (hcause : t.errCause = s.errCause) : t.Inv where
  frmWf := hfrm ▸ h.frmWf
  idleIndex := by rw [hbusy, hidx]; exact h.idleIndex
  indexRange := hidx ▸ h.indexRange
  errCause := by rw [herr, hcause]; exact h.errCause
  frameWhole := by rw [hbusy, hfrm]; exact h.frameWhole

theorem State.reset_inv : State.reset.Inv where
  frmWf := State.reset_frm_wf
  idleIndex := fun _ => rfl
  indexRange := Nat.zero_le 9
  errCause := iff_of_true rfl rfl
  frameWhole := fun h => Bool.noConfusion h

theorem State.resetCycle_inv (s : State) : s.resetCycle.Inv :=
  State.reset_inv.congr rfl rfl rfl rfl rfl

/-- No cause has the code of "no error" (R100). -/
theorem causeCode_ne_zero (c : Cause) : causeCode c ≠ 0#2 := by
  cases c <;> decide

theorem State.Inv.raise {s : State} (h : s.Inv) (c : Cause) : (s.raise c).Inv := by
  cases he : s.err with
  | true => rwa [State.raise_of_err c he]
  | false =>
    rw [State.raise_of_not_err c he]
    exact { h with errCause := iff_of_false Bool.true_eq_false.mp (causeCode_ne_zero c) }

/-- A frame that starts is whole and at its first byte. -/
theorem State.Inv.startFrame {s : State} (h : s.Inv) : (s.startFrame s.sampleFrame).Inv where
  frmWf := Memory.writeFrame_wf _ h.frmWf
  idleIndex := fun _ => rfl
  indexRange := Nat.zero_le 9
  errCause := h.errCause
  frameWhole := fun _ => ⟨_, Memory.holds_writeFrame _ _, frame_crcOk _ _ _ _⟩

theorem VerdictEffect.inv {s v : State} {d : Option Decoded} (h : VerdictEffect s d v) (hs : s.Inv) : v.Inv := by
  cases h with
  | idle => exact hs
  | illegal c => exact hs.raise c
  | command i u he =>
    have hu : u.Inv := by
      cases i with
      | pack =>
        rcases exec_pack_cases he with ⟨-, rfl⟩ | ⟨-, -, rfl⟩ | ⟨-, -, rfl⟩
        · exact hs
        · exact hs.raise _
        · exact hs.startFrame
      | nop | crcInit | crcFeed | crcRead | loadSample | statusRead =>
        cases he
        exact hs.congr rfl rfl rfl rfl rfl
    exact hu.congr (recordRead_frm i u) (recordRead_busy i u) (recordRead_txIdx i u) (recordRead_err i u)
      (recordRead_errCause i u)

/-- The index after a frame byte that is not the last is the next number. -/
theorem index_succ {k : BitVec 4} (hk : k.toNat < 10) (h9 : k ≠ Config.lastFrameIndex) :
    k.toNat < 9 ∧ (k + 1#4).toNat = k.toNat + 1 := by
  have hne : k.toNat ≠ 9 := fun h => h9 (BitVec.eq_of_toNat_eq h)
  rw [BitVec.toNat_add, BitVec.toNat_ofNat]
  omega

/-- A transfer keeps the invariants: it moves on within the frame, or ends it. -/
theorem State.Inv.sendByte {u : State} (h : u.Inv) (hb : u.busy = true) {k : BitVec 4} (hk : k.toNat < 10) (b : Byte) :
    (u.sendByte k b).Inv := by
  unfold State.sendByte
  split
  · exact { h with
      idleIndex := fun _ => rfl, indexRange := Nat.zero_le 9, frameWhole := fun h => Bool.noConfusion h }
  · obtain ⟨hlt, hnext⟩ := index_succ hk ‹_›
    exact { h with
      idleIndex := fun h => absurd (hb.symm.trans h) Bool.noConfusion, indexRange := hnext.trans_le hlt }

/-- Settles O40: a reset cycle leaves the reset values; otherwise the verdict's effect keeps the invariants and so does a
transfer, which comes only while a frame is in flight. -/
theorem stepKeepsTheStateInvariants : Obligations.StepKeepsTheStateInvariants := by
  intro s t hs h
  cases hr : s.rst with
  | true =>
    rw [step_eq_resetCycle h hr]
    exact s.resetCycle_inv
  | false =>
    obtain ⟨-, u, hu, he⟩ := step_edge h hr
    obtain ⟨v, c, hv, rfl⟩ := hu.verdictEffect hr
    have hinv : ({ v with cmdIn := c } : State).Inv := (hv.inv hs).congr rfl rfl rfl rfl rfl
    rcases State.edge_cases he with ⟨-, rfl⟩ | ⟨hyes, b, hread, rfl⟩
    · exact hinv.congr rfl rfl rfl rfl rfl
    · obtain ⟨-, hbusy, -⟩ := hu.busy (State.transfers_eq_true_iff.1 hyes).1
      exact (hinv.sendByte hbusy (State.memRead_eq_ok.1 hread).1 b).congr rfl rfl rfl rfl rfl

/-! ## What was sent is whole frames -/

/-- The frame of four samples. -/
def frameOf (u : Vector Half 4) : Vector Byte 10 := frame u[0] u[1] u[2] u[3]

/-- The sink has received whole frames and then the first `txIdx` bytes of the frame the buffer holds. -/
def State.SentUpTo (s : State) (samples : List (Vector Half 4)) (u : Vector Half 4) : Prop :=
  Memory.holds s.frm (frameOf u) ∧ s.txOut = wholeFrames samples ++ (frameOf u).toList.take s.txIdx.toNat

/-- `sentWholeFrames` by cases on whether a frame is in flight. -/
theorem State.sentWholeFrames_iff {s : State} :
    s.sentWholeFrames ↔ (s.resetSeen = false →
      (s.busy = false → ∃ samples, s.txOut = wholeFrames samples) ∧
      (s.busy = true → ∃ samples u, s.SentUpTo samples u)) := by
  refine forall_congr' fun _ => ⟨?_, ?_⟩
  · rintro ⟨samples, part, hout, hidle, hsending⟩
    refine ⟨fun hb => ⟨samples, by rw [hout, hidle hb, List.append_nil]⟩, fun hb => ?_⟩
    obtain ⟨u, hheld, hpart⟩ := hsending hb
    exact ⟨samples, u, hheld, hpart ▸ hout⟩
  · rintro ⟨hidle, hsending⟩
    cases hb : s.busy with
    | false =>
      obtain ⟨samples, hout⟩ := hidle hb
      exact ⟨samples, [], by rw [hout, List.append_nil], fun _ => rfl, fun h => Bool.noConfusion h⟩
    | true =>
      obtain ⟨samples, u, hheld, hout⟩ := hsending hb
      exact ⟨samples, _, hout, fun h => Bool.noConfusion h, fun _ => ⟨u, hheld, rfl⟩⟩

theorem wholeFrames_concat (samples : List (Vector Half 4)) (u : Vector Half 4) :
    wholeFrames (samples ++ [u]) = wholeFrames samples ++ (frameOf u).toList := by
  simp [wholeFrames, frameOf]

/-- The first `k` bytes of a frame and the byte at `k` are the first `k + 1`. -/
theorem take_concat_getElem (f : Vector Byte 10) {k : Nat} (hk : k < 10) :
    f.toList.take k ++ [f[k]] = f.toList.take (k + 1) := by
  rw [List.take_succ_eq_append_getElem (by simpa using hk), Vector.getElem_toList]

/-- With a ready sink a step sends the next byte of the frame that the buffer holds, and ends the frame after byte 9. -/
theorem step_sends {s t : State} {f : Vector Byte 10} (h : step s = .next t) (hr : s.rst = false)
    (hb : s.busy = true) (hready : s.txReady = true) (hheld : Memory.holds s.frm f) :
    ∃ hk : s.txIdx.toNat < 10, t.frm = s.frm ∧ t.txOut = s.txOut ++ [f[s.txIdx.toNat]] ∧
      ((s.txIdx.toNat = 9 ∧ t.busy = false) ∨
        (s.txIdx.toNat < 9 ∧ t.busy = true ∧ t.txIdx.toNat = s.txIdx.toNat + 1)) := by
  obtain ⟨hfrm, ⟨b, hread, hout⟩, hbusy, hidx⟩ := step_of_ready h hr hb hready
  obtain ⟨hk, -⟩ := State.memRead_eq_ok.1 hread
  rw [State.memRead_of_holds hheld hk] at hread
  cases hread
  refine ⟨hk, hfrm, hout, ?_⟩
  by_cases h9 : s.txIdx = 9#4
  · exact .inl ⟨by simp [h9], by simp [hbusy, h9]⟩
  · obtain ⟨hlt, hnext⟩ := index_succ hk h9
    exact .inr ⟨hlt, by simp [hbusy, h9], by rw [hidx, if_neg h9, hnext]⟩

/-- With no frame in flight, a verdict leaves none in flight or starts one at its first byte. -/
theorem VerdictEffect.starts_or_idle {s v : State} {d : Option Decoded} (h : VerdictEffect s d v)
    (hb : s.busy = false) :
    v.busy = false ∨ (v.busy = true ∧ v.txIdx = 0#4 ∧ Memory.holds v.frm s.sampleFrame) := by
  rcases h.samples_cases with ⟨i, x, -, rfl⟩ | ⟨-, rfl⟩ | ⟨-, -, -, -, hkept⟩
  · exact .inl hb
  · exact .inr ⟨rfl, rfl, Memory.holds_writeFrame _ _⟩
  · exact .inl (hkept.trans hb)

/-- A step without reset with no frame in flight sends nothing, and leaves none in flight or starts one. -/
theorem step_of_not_busy {s t : State} (h : step s = .next t) (hr : s.rst = false) (hb : s.busy = false) :
    t.txOut = s.txOut ∧
      (t.busy = false ∨ (t.busy = true ∧ t.txIdx = 0#4 ∧ Memory.holds t.frm s.sampleFrame)) := by
  have hno : s.transfers = false := by simp [State.transfers, State.txValid, hb]
  refine ⟨step_txOut h hno, ?_⟩
  obtain ⟨v, c, hv, he⟩ := step_verdictEffect h hr
  rw [State.edge_of_not_transfers _ hno] at he
  cases he
  exact hv.starts_or_idle hb

theorem step_resetSeen {s t : State} (h : step s = .next t) (hr : s.rst = false) : t.resetSeen = s.resetSeen := by
  obtain ⟨-, u, hu, he⟩ := step_edge h hr
  obtain ⟨-, -, -, -, hseen, -⟩ := hu.env
  obtain ⟨-, -, -, -, -, -, -, -, -, -, hkept⟩ := State.edge_keeps he
  exact hkept.trans hseen

/-- A cycle of a frame in flight goes on in the frame, or ends it. -/
theorem State.SentUpTo.step {s t : State} {samples : List (Vector Half 4)} {u : Vector Half 4}
    (hs : s.SentUpTo samples u) (h : step s = .next t) (hr : s.rst = false) (hb : s.busy = true) :
    (t.busy = true ∧ t.SentUpTo samples u) ∨ (t.busy = false ∧ t.txOut = wholeFrames (samples ++ [u])) := by
  obtain ⟨hheld, hout⟩ := hs
  cases hready : s.txReady with
  | false =>
    obtain ⟨hfrm, hbusy, hidx, hkept⟩ := step_of_unready h hr hb hready
    exact .inl ⟨hbusy, hfrm ▸ hheld, by rw [hkept, hidx, hout]⟩
  | true =>
    obtain ⟨hk, hfrm, hsent, hnext⟩ := step_sends h hr hb hready hheld
    rw [hout, List.append_assoc, take_concat_getElem _ hk] at hsent
    rcases hnext with ⟨h9, hbusy⟩ | ⟨-, hbusy, hidx⟩
    · refine .inr ⟨hbusy, ?_⟩
      rw [hsent, wholeFrames_concat, List.take_of_length_le (by simp [h9])]
    · exact .inl ⟨hbusy, hfrm ▸ hheld, by rw [hsent, hidx]⟩

theorem State.sentWholeFrames.step {s t : State} (hs : s.sentWholeFrames) (h : step s = .next t) :
    t.sentWholeFrames := by
  rw [State.sentWholeFrames_iff] at hs ⊢
  intro hseen
  cases hr : s.rst with
  | true =>
    rw [step_eq_resetCycle h hr] at hseen
    exact Bool.noConfusion hseen
  | false =>
    rw [step_resetSeen h hr] at hseen
    obtain ⟨hidle, hsending⟩ := hs hseen
    cases hb : s.busy with
    | false =>
      obtain ⟨samples, hout⟩ := hidle hb
      obtain ⟨hkept, hbusy | ⟨hbusy, hidx, hheld⟩⟩ := step_of_not_busy h hr hb
      · simp only [hbusy, hkept, hout]
        exact ⟨fun _ => ⟨samples, rfl⟩, fun h => Bool.noConfusion h⟩
      · simp only [hbusy]
        refine ⟨fun h => Bool.noConfusion h, fun _ => ⟨samples, s.smp, hheld, ?_⟩⟩
        simp [hkept, hout, hidx]
    | true =>
      obtain ⟨samples, u, hu⟩ := hsending hb
      obtain ⟨hbusy, hu⟩ | ⟨hbusy, hout⟩ := hu.step h hr hb
      · simp only [hbusy]
        exact ⟨fun h => Bool.noConfusion h, fun _ => ⟨samples, u, hu⟩⟩
      · simp only [hbusy]
        exact ⟨fun _ => ⟨_, hout⟩, fun h => Bool.noConfusion h⟩

/-- Settles O41: a step goes on in the frame in flight, ends it, starts one, or sends nothing; a finished run has no frame
in flight. -/
theorem stepKeepsWholeFramesSent : Obligations.StepKeepsWholeFramesSent := by
  refine ⟨fun s t hs h => hs.step h, fun s hs ⟨_, _, hb, hseen⟩ => ?_⟩
  exact (State.sentWholeFrames_iff.1 hs hseen).1 hb

/-- Settles O39: the reset values meet the invariants, and nothing has been sent. -/
theorem resetMeetsTheInvariants : Obligations.ResetMeetsTheInvariants :=
  ⟨State.reset_inv, State.sentWholeFrames_iff.2 fun _ => ⟨fun _ => ⟨[], rfl⟩, fun h => Bool.noConfusion h⟩⟩

/-! ## Reads and stops under the invariants -/

/-- In a state that meets the invariants the byte in flight is there. -/
theorem State.Inv.memRead {s : State} (h : s.Inv) (hb : s.busy = true) : ∃ b, s.memRead s.txIdx = .ok b := by
  obtain ⟨f, hheld, -⟩ := h.frameWhole hb
  exact ⟨_, State.memRead_of_holds hheld (Nat.lt_succ_of_le h.indexRange)⟩

/-- In a state that meets the invariants the edge has a next state. -/
theorem State.Inv.edge {s : State} (h : s.Inv) (u : State) : ∃ t, s.edge u = .next t := by
  cases htrans : s.transfers with
  | false => exact ⟨_, State.edge_of_not_transfers u htrans⟩
  | true =>
    obtain ⟨b, hb⟩ := h.memRead (State.transfers_eq_true_iff.1 htrans).1
    exact ⟨_, State.edge_of_transfers u htrans hb⟩

/-- An edge never ends in a refusal. -/
theorem State.edge_ne_refused (s u : State) (r : Refusal) : s.edge u ≠ .refused r := by
  cases htrans : s.transfers with
  | false => simp [State.edge_of_not_transfers u htrans]
  | true =>
    cases hread : s.memRead s.txIdx with
    | ok b => simp [State.edge_of_transfers u htrans hread]
    | error e =>
      rw [State.transfers] at htrans
      simp [State.edge, txPart, htrans, hread]

/-- Settles O38: the three kinds of cycle, of which a running one is an edge. -/
theorem stepStopsOnlyBeforeTheFirstReset : Obligations.StepStopsOnlyBeforeTheFirstReset := by
  refine ⟨fun s hs hd => ?progress, fun s hr => ⟨_, step_of_rst hr⟩, fun s hd hr => by simp [step_eq, hd, hr],
    fun s r => ?noRefusal⟩
  case progress =>
    cases hr : s.rst with
    | true => exact ⟨_, step_of_rst hr⟩
    | false =>
      obtain ⟨u, -, hstep⟩ := step_eq_edge ⟨hd, hr⟩
      rw [hstep]
      exact hs.edge u
  case noRefusal =>
    rw [step_eq]
    split
    · simp
    · split
      · obtain ⟨u, hu, -⟩ := commandPart_spec s
        rw [hu, andThen_next]
        exact s.edge_ne_refused u r
      · simp

/-- The only spelling of PACK is its word. -/
theorem decode_eq_pack_iff {w : Word} : decode w = .command .pack ↔ w = 0x50000000#32 :=
  decodeIsExactlyTheInverseOfEncode w .pack

/-- What `tx_data` shows (R33). -/
theorem State.txData_of_eq_ok {s : State} {b : Byte} (h : s.txData = .ok b) :
    (s.txValid = true → Memory.read s.frm s.txIdx.toNat = some b) ∧ (s.txValid = false → b = 0x00#8) := by
  unfold State.txData at h
  cases hv : s.txValid with
  | true =>
    rw [hv, if_pos rfl] at h
    exact ⟨fun _ => (State.memRead_eq_ok.1 h).2, fun h => Bool.noConfusion h⟩
  | false =>
    simp only [hv, Bool.false_eq_true, if_false] at h
    cases h
    exact ⟨fun h => Bool.noConfusion h, fun _ => rfl⟩

/-- Settles O30: PACK has one spelling; a look by the rule of the ports; a byte offered is there under the invariants. -/
theorem outputsShowTheStateBeforeTheEdge : Obligations.OutputsShowTheStateBeforeTheEdge := by
  refine ⟨fun s w => ?ready, fun s w o ho => ?shows, fun s hd hs w => ?looks⟩
  case ready =>
    rw [← Bool.not_eq_false, State.cmdReady_eq_false, decode_eq_pack_iff, not_or, Bool.not_eq_true]
  case shows =>
    obtain ⟨-, b, hdata, rfl⟩ := State.outputs_eq_ok.1 ho
    obtain ⟨hoffered, hidle⟩ := State.txData_of_eq_ok hdata
    exact ⟨rfl, rfl, rfl, rfl, by simp [State.txValid], hoffered, hidle⟩
  case looks =>
    have hdata : ∃ b, s.txData = .ok b := by
      unfold State.txData
      split
      · exact hs.memRead (Bool.and_eq_true_iff.1 ‹_›).1
      · exact ⟨_, rfl⟩
    obtain ⟨b, hdata⟩ := hdata
    exact ⟨_, State.outputs_eq_ok.2 ⟨hd, b, hdata, rfl⟩⟩

/-! ## Reset -/

/-- Settles O36: a reset cycle drops the head of the command list unseen; a look before the first reset by the rule of the
ports. -/
theorem presentationInAResetCycleLeaves : Obligations.PresentationInAResetCycleLeaves := by
  refine ⟨fun s p q rest hr => ?_, fun s w => State.outputs_before_reset w⟩
  have hstep (x : Option Word) : step { s with cmdIn := x :: rest } = .next { s.resetCycle with cmdIn := rest } :=
    step_of_rst hr
  exact ⟨(hstep p).trans (hstep q).symm, _, hstep p, rfl⟩

/-- Settles O37: after the reset cycle no sample is valid, so the PACK presented again raises PACK_INCOMPLETE. -/
theorem resetAbandonsTheFrameInFlight : Obligations.ResetAbandonsTheFrameInFlight := by
  intro s rest hr hb hquiet hin
  have hrun : s.resetCycle.running := ⟨rfl, hquiet⟩
  have hnext : s.resetCycle.cmdIn = some 0x50000000#32 :: rest := by rw [State.resetCycle_cmdIn, hin, List.tail_cons]
  have hraises : s.resetCycle.Raises (some (decode 0x50000000#32)) .packIncomplete :=
    .inr ⟨congrArg some decode_packWord, rfl, by simp [State.reset, allValid], rfl⟩
  obtain ⟨-, hstep⟩ := step_of_raises hrun hnext hraises
  rw [State.edge_of_not_busy _ (by simp [State.reset]), State.raise_of_not_err _ rfl] at hstep
  exact ⟨_, _, step_of_rst hr, rfl, rfl, rfl, hstep, rfl, rfl, rfl, rfl⟩

end Sys2Proof.Machine
end

section
/-!
SUPPORT. Runs of several cycles without reset (R84, R106, R127): a frame in flight while the sink waits, while it takes
bytes now and then, and while it takes one in every cycle.
-/

namespace Sys2Proof.Machine

/-! ## Runs, cycle by cycle -/

theorem runFor_zero (s : State) : runFor 0 s = .next s := rfl

theorem run_of_next {M : Host.Core} {s u : M.State} (n : Nat) (h : M.step s = .next u) :
    M.run (n + 1) s = M.run n u := by
  rw [Host.Core.run, h]

theorem run_of_fault {M : Host.Core} {s : M.State} {e : M.Fault} (n : Nat) (h : M.step s = .fault e) :
    M.run (n + 1) s = .fault e := by
  rw [Host.Core.run, h]

theorem run_of_refused {M : Host.Core} {s : M.State} {e : M.Refusal} (n : Nat) (h : M.step s = .refused e) :
    M.run (n + 1) s = .refused e := by
  rw [Host.Core.run, h]

/-- A run is its first cycle, then the run from where that ends. -/
theorem runFor_succ (n : Nat) (s : State) : runFor (n + 1) s = andThen (step s) (runFor n) := by
  cases h : step s with
  | next u => exact run_of_next (M := core) n h
  | fault e => exact run_of_fault (M := core) n h
  | refused e => exact run_of_refused (M := core) n h

/-- A run of `n` cycles after one that ends in `u` is the run from `u`. -/
theorem runFor_of_step {s u : State} (n : Nat) (h : step s = .next u) : runFor (n + 1) s = runFor n u := by
  rw [runFor_succ, h, andThen_next]

/-- A run goes on from where its first part ends. -/
theorem runFor_add {m : Nat} {s u : State} (n : Nat) (h : runFor m s = .next u) : runFor (m + n) s = runFor n u := by
  induction m generalizing s with
  | zero =>
    cases h
    rw [Nat.zero_add]
  | succ m ih =>
    rw [runFor_succ, andThen_eq_next] at h
    obtain ⟨v, hv, hu⟩ := h
    rw [Nat.succ_add, runFor_of_step _ hv, ih hu]

/-- The next `n` cycles run: the first reset has been done and `rst` stays low. -/
def State.RunsFor (s : State) (n : Nat) : Prop := s.resetDone = true ∧ s.quietFor n

/-- A step moves the schedules on and leaves the block after its first reset. -/
theorem step_schedules {s t : State} (h : step s = .next t) :
    t.resetDone = true ∧ t.txReadyIn = s.txReadyIn.tail ∧ t.rstIn = s.rstIn.tail := by
  rcases step_cases h with ⟨-, rfl⟩ | ⟨-, hd, u, v, hu, hv, rfl⟩
  · exact ⟨rfl, rfl, rfl⟩
  · obtain ⟨htx, hrst, -, -, -, hdone⟩ := hu.env
    cases hv <;> simp [htx, hrst, hdone, hd]

theorem State.RunsFor.running {s : State} {n : Nat} (h : s.RunsFor (n + 1)) : s.running := by
  obtain ⟨hd, hq⟩ := h
  refine ⟨hd, ?_⟩
  unfold State.quietFor at hq
  unfold State.rst
  cases hin : s.rstIn with
  | nil => rfl
  | cons r rs => exact hq r (by simp [hin])

theorem State.RunsFor.step {s t : State} {n : Nat} (h : s.RunsFor (n + 1)) (hstep : step s = .next t) :
    t.RunsFor n := by
  obtain ⟨hd, -, hrst⟩ := step_schedules hstep
  refine ⟨hd, fun r hr => h.2 r ?_⟩
  rw [hrst] at hr
  cases hin : s.rstIn with
  | nil => simp [hin] at hr
  | cons a rs =>
    rw [hin, List.tail_cons] at hr
    exact List.mem_cons_of_mem _ hr

/-- A run is quiet for fewer cycles too. -/
theorem State.RunsFor.mono {s : State} {m n : Nat} (h : s.RunsFor n) (hmn : m ≤ n) : s.RunsFor m :=
  ⟨h.1, fun r hr => h.2 r (List.take_subset_take_left _ hmn hr)⟩

/-- The sink's readiness is the head of the schedule. -/
theorem State.txReady_of_cons {s : State} {r : Bool} {rs : List Bool} (h : s.txReadyIn = r :: rs) : s.txReady = r := by
  rw [State.txReady, h]

/-- A running cycle in which the sink is not ready has a next state. -/
theorem exists_step_of_unready {s : State} (h : s.running) (hready : s.txReady = false) : ∃ t, step s = .next t := by
  obtain ⟨u, -, hstep⟩ := step_eq_edge h
  exact ⟨_, hstep.trans (State.edge_of_not_transfers u (by simp [State.transfers, hready]))⟩

/-- A running cycle with a whole frame in flight has a next state. -/
theorem exists_step_of_holds {s : State} {f : Vector Byte 10} (h : s.running) (hheld : Memory.holds s.frm f)
    (hk : s.txIdx.toNat < 10) : ∃ t, step s = .next t := by
  obtain ⟨u, -, hstep⟩ := step_eq_edge h
  cases htrans : s.transfers with
  | false => exact ⟨_, hstep.trans (State.edge_of_not_transfers u htrans)⟩
  | true => exact ⟨_, hstep.trans (State.edge_of_transfers u htrans (State.memRead_of_holds hheld hk))⟩

/-- A PACK behind a frame in flight stays presented (R105). -/
theorem step_keeps_held_pack {s t : State} (h : step s = .next t) (hrun : s.running) (hb : s.busy = true)
    (hp : s.presented = some 0x50000000#32) : t.cmdIn = s.cmdIn := by
  have hpart := commandPart_of_held hp (State.cmdReady_packWord_of_busy hb)
  have hedge : s.edge s = .next t := (step_of_running hrun hpart).symm.trans h
  obtain ⟨-, -, -, -, -, -, -, -, hcmd, -⟩ := State.edge_keeps hedge
  exact hcmd

/-! ## A sink that waits (R106) -/

/-- Cycles without a ready sink send nothing; a frame in flight stays where it is and holds a PACK behind it. -/
theorem runFor_unready {n : Nat} {s : State} (hs : s.RunsFor n) (hlen : n ≤ s.txReadyIn.length)
    (hready : ∀ r ∈ s.txReadyIn.take n, r = false) :
    ∃ t, runFor n s = .next t ∧ t.txOut = s.txOut ∧
      (s.busy = true → t.busy = true ∧ t.txIdx = s.txIdx ∧ t.frm = s.frm ∧
        (s.presented = some 0x50000000#32 → t.cmdIn = s.cmdIn)) := by
  induction n generalizing s with
  | zero => exact ⟨s, rfl, rfl, fun hb => ⟨hb, rfl, rfl, fun _ => rfl⟩⟩
  | succ n ih =>
    obtain ⟨r, rs, hin⟩ := List.exists_cons_of_length_pos (Nat.lt_of_lt_of_le n.succ_pos hlen)
    rw [hin, List.take_succ_cons, List.forall_mem_cons] at hready
    obtain ⟨rfl, hrest⟩ := hready
    have hnot : s.txReady = false := State.txReady_of_cons hin
    obtain ⟨u, hu⟩ := exists_step_of_unready hs.running hnot
    have htail : u.txReadyIn = rs := by rw [(step_schedules hu).2.1, hin, List.tail_cons]
    rw [hin, List.length_cons] at hlen
    obtain ⟨t, ht, hout, hkeep⟩ := ih (hs.step hu) (by rw [htail]; omega) (htail ▸ hrest)
    refine ⟨t, (runFor_of_step n hu).trans ht, ?_, fun hb => ?_⟩
    · exact hout.trans (step_txOut hu (by simp [State.transfers, hnot]))
    · obtain ⟨hfrm, hbusy, hidx, -⟩ := step_of_unready hu hs.running.2 hb hnot
      obtain ⟨hb', hidx', hfrm', hcmd'⟩ := hkeep hbusy
      refine ⟨hb', hidx'.trans hidx, hfrm'.trans hfrm, fun hp => ?_⟩
      have hcmd := step_keeps_held_pack hu hs.running hb hp
      exact (hcmd' (by rwa [State.presented, hcmd])).trans hcmd

/-- Settles O29: the cycles without a ready sink keep the frame in flight, so the run is not finished. -/
theorem unreadySinkLeavesTheFrameStuck : Obligations.UnreadySinkLeavesTheFrameStuck := by
  intro s n hd hb hq hlen hready
  obtain ⟨t, ht, hout, hkeep⟩ := runFor_unready ⟨hd, hq⟩ hlen hready
  obtain ⟨hbusy, hidx, hfrm, hcmd⟩ := hkeep hb
  refine ⟨t, ht, hbusy, hidx, hfrm, hout, fun ⟨_, _, hidle, _⟩ => ?_, hcmd⟩
  simp [hbusy] at hidle

/-! ## A sink that takes bytes now and then (R84) -/

/-- The bytes of a frame from `k` on, the first of them set apart. -/
theorem take_succ_drop (f : Vector Byte 10) {k : Nat} (hk : k < 10) (c : Nat) :
    (f.toList.drop k).take (c + 1) = f[k] :: (f.toList.drop (k + 1)).take c := by
  rw [List.drop_eq_getElem_cons (by simpa using hk), List.take_succ_cons, Vector.getElem_toList]

/-- A frame in flight leaves byte by byte in the cycles of a ready sink, as long as there are no more of them than bytes
left. -/
theorem runFor_inFlight {n : Nat} {s : State} {f : Vector Byte 10} (hs : s.RunsFor n) (hb : s.busy = true)
    (hheld : Memory.holds s.frm f) (hk : s.txIdx.toNat < 10) (hlen : n ≤ s.txReadyIn.length)
    (hcount : s.txIdx.toNat + (s.txReadyIn.take n).count true ≤ 10) :
    ∃ t, runFor n s = .next t ∧
      t.txOut = s.txOut ++ (f.toList.drop s.txIdx.toNat).take ((s.txReadyIn.take n).count true) := by
  induction n generalizing s with
  | zero => exact ⟨s, rfl, by simp⟩
  | succ n ih =>
    obtain ⟨r, rs, hin⟩ := List.exists_cons_of_length_pos (Nat.lt_of_lt_of_le n.succ_pos hlen)
    obtain ⟨u, hu⟩ := exists_step_of_holds hs.running hheld hk
    have htail : u.txReadyIn = rs := by rw [(step_schedules hu).2.1, hin, List.tail_cons]
    have hlen' : n ≤ u.txReadyIn.length := by
      rw [hin, List.length_cons] at hlen
      rw [htail]
      omega
    rw [hin, List.take_succ_cons, ← htail] at hcount ⊢
    rw [runFor_of_step n hu]
    cases r with
    | false =>
      rw [List.count_cons_of_ne (by simp)] at hcount ⊢
      obtain ⟨hfrm, hbusy, hidx, hout⟩ := step_of_unready hu hs.running.2 hb (State.txReady_of_cons hin)
      rw [← hidx] at hk hcount ⊢
      obtain ⟨t, ht, hsent⟩ := ih (hs.step hu) hbusy (hfrm ▸ hheld) hk hlen' hcount
      exact ⟨t, ht, by rw [hsent, hout]⟩
    | true =>
      rw [List.count_cons_self] at hcount ⊢
      obtain ⟨_, hfrm, hout, ⟨h9, -⟩ | ⟨hlt, hbusy, hidx⟩⟩ :=
        step_sends hu hs.running.2 hb (State.txReady_of_cons hin) hheld
      · have hzero : (u.txReadyIn.take n).count true = 0 := by omega
        have hnot : ∀ r ∈ u.txReadyIn.take n, r = false := fun r hr =>
          eq_false_of_ne_true fun h => List.count_eq_zero.1 hzero (h ▸ hr)
        obtain ⟨t, ht, hsent, -⟩ := runFor_unready (hs.step hu) hlen' hnot
        exact ⟨t, ht, by rw [hsent, hout, take_succ_drop f hk, hzero, List.take_zero]⟩
      · obtain ⟨t, ht, hsent⟩ := ih (hs.step hu) hbusy (hfrm ▸ hheld) (by omega) hlen' (by omega)
        refine ⟨t, ht, ?_⟩
        rw [hsent, hout, hidx, take_succ_drop f hk, List.append_assoc, List.singleton_append]

/-- Settles O27: the accepting cycle puts the frame in flight at byte 0 and sends nothing; the rest is the rule of a frame in
flight. -/
theorem sinkReceivesTheFrameInOrder : Obligations.SinkReceivesTheFrameInOrder := by
  intro s rest n hrun hb hsv hin hq hlen hcount
  have hruns : s.RunsFor (n + 1) := ⟨hrun.1, hq⟩
  have hstep := step_of_command hrun hin (State.cmdReady_of_not_busy _ hb hrun.2) decode_packWord
    (exec_pack_of_complete hb hsv)
  rw [State.edge_of_not_busy _ hb] at hstep
  obtain ⟨-, htail, -⟩ := step_schedules hstep
  have hheld := Memory.holds_writeFrame s.frm s.sampleFrame
  rw [runFor_of_step n hstep]
  rw [← htail] at hcount ⊢
  exact runFor_inFlight (hruns.step hstep) rfl hheld (Nat.zero_lt_succ 9) (by rw [htail, List.length_tail]; omega)
    (le_of_eq_of_le (Nat.zero_add _) hcount)

/-! ## A sink that takes a byte in every cycle (R127) -/

/-- Cycles with a ready sink hold a PACK behind the frame in flight, and the frame is in flight until its last byte is
sent. -/
theorem runFor_ready_held {n m : Nat} {s : State} {f : Vector Byte 10} (hs : s.RunsFor (n + m)) (hb : s.busy = true)
    (hp : s.presented = some 0x50000000#32) (hheld : Memory.holds s.frm f)
    (hready : s.txReadyIn.take n = List.replicate n true) (hk : s.txIdx.toNat < 10) (hn : s.txIdx.toNat + n ≤ 10) :
    ∃ t, runFor n s = .next t ∧ t.RunsFor m ∧ t.cmdIn = s.cmdIn ∧ t.busy = decide (s.txIdx.toNat + n < 10) := by
  induction n generalizing s with
  | zero => exact ⟨s, rfl, by rwa [Nat.zero_add] at hs, rfl, by simpa [hb] using hk⟩
  | succ n ih =>
    rw [Nat.succ_add] at hs
    obtain ⟨rs, hin, hrest⟩ : ∃ rs, s.txReadyIn = true :: rs ∧ rs.take n = List.replicate n true := by
      cases hin : s.txReadyIn with
      | nil => simp [hin, List.replicate_succ] at hready
      | cons r rs => simpa [hin, List.replicate_succ] using hready
    obtain ⟨u, hu⟩ := exists_step_of_holds hs.running hheld hk
    have htail : u.txReadyIn = rs := by rw [(step_schedules hu).2.1, hin, List.tail_cons]
    have hcmd : u.cmdIn = s.cmdIn := step_keeps_held_pack hu hs.running hb hp
    rw [runFor_of_step n hu]
    obtain ⟨_, hfrm, -, ⟨h9, hbusy⟩ | ⟨hlt, hbusy, hidx⟩⟩ :=
      step_sends hu hs.running.2 hb (State.txReady_of_cons hin) hheld
    · obtain rfl : n = 0 := by omega
      exact ⟨u, rfl, by simpa using hs.step hu, hcmd, by simp [hbusy, h9]⟩
    · obtain ⟨t, ht, hruns, hcmd', hbusy'⟩ := ih (hs.step hu) hbusy (by rwa [State.presented, hcmd]) (hfrm ▸ hheld)
        (htail ▸ hrest) (by omega) (by omega)
      refine ⟨t, ht, hruns, hcmd'.trans hcmd, ?_⟩
      rw [hbusy', hidx, Nat.succ_add_eq_add_succ]

/-- Without a frame in flight a running cycle accepts the PACK presented. -/
theorem step_accepts_pack {s : State} {rest : List (Option Word)} (h : s.running) (hb : s.busy = false)
    (hin : s.cmdIn = some 0x50000000#32 :: rest) : ∃ u, step s = .next u ∧ u.cmdIn = rest := by
  obtain ⟨v, hv⟩ := exec_next .pack s
  have hstep := step_of_command h hin (State.cmdReady_of_not_busy _ hb h.2) decode_packWord hv
  exact ⟨_, hstep.trans (State.edge_of_not_busy _ hb), rfl⟩

/-- Settles O28: the ten cycles of a ready sink, whose bytes are those of the frame in flight, and then the cycle that
accepts. -/
theorem heldPackIsAcceptedAfterTenTransfers : Obligations.HeldPackIsAcceptedAfterTenTransfers := by
  intro s f rest hrun hb hidx hheld hin hq hready
  have hk : s.txIdx.toNat = 0 := by simp [hidx]
  have hp : s.presented = some 0x50000000#32 := State.presented_of_cons hin
  have hruns : s.RunsFor 11 := ⟨hrun.1, hq⟩
  have hheldFor (n m : Nat) (hnm : n + m = 11) (hn : n ≤ 10) :
      ∃ t, runFor n s = .next t ∧ t.RunsFor m ∧ t.cmdIn = s.cmdIn ∧ t.busy = decide (s.txIdx.toNat + n < 10) := by
    refine runFor_ready_held (hnm ▸ hruns) hb hp hheld ?_ (by omega) (by omega)
    rw [← Nat.min_eq_left hn, ← List.take_take, hready, List.take_replicate]
  obtain ⟨t, ht, hone, hcmd, hbusy⟩ := hheldFor 10 1 rfl le_rfl
  have hidle : t.busy = false := by simp [hbusy, hk]
  have hlen : 10 ≤ s.txReadyIn.length := by
    have := congrArg List.length hready
    simp only [List.length_take, List.length_replicate] at this
    omega
  refine ⟨fun n hn => ?holding, ⟨t, ht, hidle, hcmd, ?ready, ?sent⟩, ?accepted⟩
  case holding =>
    obtain ⟨u, hu, -, hcmd, hbusy⟩ := hheldFor n (11 - n) (by omega) (by omega)
    have hb' : u.busy = true := by simp [hbusy, hk, hn]
    exact ⟨u, hu, hb', hcmd, State.cmdReady_packWord_of_busy hb'⟩
  case ready => exact State.cmdReady_of_not_busy _ hidle hone.running.2
  case sent =>
    obtain ⟨u, hu, hsent⟩ := runFor_inFlight (hruns.mono (by decide)) hb hheld (by omega) hlen
      (by simp [hready, hk])
    rw [ht] at hu
    cases hu
    rw [hsent, hready, hk, List.count_replicate_self, List.drop_zero, List.take_of_length_le (by simp)]
  case accepted =>
    obtain ⟨u, hu, hrest⟩ := step_accepts_pack hone.running hidle (hcmd.trans hin)
    exact ⟨u, by rw [runFor_add 1 ht, runFor_of_step 0 hu, runFor_zero], hrest⟩

end Sys2Proof.Machine
end

section
/-!
SUPPORT. What no rule can observe (spec/10_state.md R11, R13): two states that differ only in an invalid sample or in an idle
frame buffer go through every part of a cycle together.
-/

namespace Sys2Proof.Machine

/-! ## Updates of two states that look the same -/

namespace State.sameSeen

theorem writeCrc {s t : State} (h : s.sameSeen t) (v : Half) : (s.writeCrc v).sameSeen (t.writeCrc v) :=
  { h with crcAcc := rfl }

theorem writeRdata {s t : State} (h : s.sameSeen t) (v : Half) : (s.writeRdata v).sameSeen (t.writeRdata v) :=
  { h with rdata := rfl }

/-- A sample written is valid and the same in both; the others stand as before. -/
theorem writeSample {s t : State} (h : s.sameSeen t) (i : BitVec 2) (v : Half) :
    (s.writeSample i v).sameSeen (t.writeSample i v) :=
  { h with
    sv := congrArg (setValid · i) h.sv
    smp := fun j hj => by
      rw [State.sampleValid_writeSample] at hj
      rw [State.sample_writeSample, State.sample_writeSample]
      split
      · rfl
      · exact h.smp j (by simpa [*] using hj) }

theorem raise {s t : State} (h : s.sameSeen t) (c : Cause) : (s.raise c).sameSeen (t.raise c) := by
  cases he : s.err with
  | true => rwa [State.raise_of_err c he, State.raise_of_err c (h.err ▸ he)]
  | false =>
    rw [State.raise_of_not_err c he, State.raise_of_not_err c (h.err ▸ he)]
    exact { h with err := rfl, errCause := rfl }

theorem nextPresentation {s t : State} (h : s.sameSeen t) : s.nextPresentation.sameSeen t.nextPresentation :=
  { h with cmdIn := congrArg List.tail h.cmdIn }

theorem recordRead {s t : State} (h : s.sameSeen t) (i : Instr) :
    (recordRead i s).sameSeen (recordRead i t) := by
  have hout : s.rdataOut ++ [s.rdata] = t.rdataOut ++ [t.rdata] := by rw [h.rdataOut, h.rdata]
  cases i with
  | crcRead | statusRead => exact { h with rdataOut := hout }
  | nop | crcInit | crcFeed | loadSample | pack => exact h

theorem tick {s t : State} (h : s.sameSeen t) : s.tick.sameSeen t.tick :=
  { h with
    txReadyIn := congrArg List.tail h.txReadyIn
    rstIn := congrArg List.tail h.rstIn
    cycle := congrArg (· + 1) h.cycle }

theorem sendByte {s t : State} (h : s.sameSeen t) (k : BitVec 4) (b : Byte) :
    (s.sendByte k b).sameSeen (t.sendByte k b) := by
  have hout : s.txOut ++ [b] = t.txOut ++ [b] := by rw [h.txOut]
  unfold State.sendByte
  split
  · exact { h with txOut := hout, busy := rfl, txIdx := rfl, frm := fun hb => Bool.noConfusion hb }
  · exact { h with txOut := hout, txIdx := rfl }

/-- A frame is packed of valid samples, so it is the same in both, and it replaces the whole buffer. -/
theorem startFrame {s t : State} (h : s.sameSeen t) (hs : Memory.wf s.frm = true) (ht : Memory.wf t.frm = true)
    (hv : s.sv = allValid) : (s.startFrame s.sampleFrame).sameSeen (t.startFrame t.sampleFrame) := by
  have hsamples (i : BitVec 2) : s.sample i = t.sample i := h.smp i ((sv_eq_allValid_iff s).1 hv i)
  have hframe : s.sampleFrame = t.sampleFrame := by simp only [State.sampleFrame, hsamples]
  rw [hframe]
  exact { h with
    sv := rfl
    smp := fun i hi => by simp at hi
    busy := rfl
    frm := fun _ => Memory.writeFrame_eq _ hs ht
    txIdx := rfl }

theorem status {s t : State} (h : s.sameSeen t) : s.status = t.status := by
  rw [State.status, State.status, h.sv, h.errCause, h.err, h.busy, h.txIdx]

/-! ## Ports of two states that look the same -/

theorem rst {s t : State} (h : s.sameSeen t) : s.rst = t.rst := by rw [State.rst, State.rst, h.rstIn]

theorem presented {s t : State} (h : s.sameSeen t) : s.presented = t.presented := by
  rw [State.presented, State.presented, h.cmdIn]

theorem cmdReady {s t : State} (h : s.sameSeen t) (w : Word) : s.cmdReady w = t.cmdReady w := by
  rw [State.cmdReady, State.cmdReady, h.rst, h.busy]

theorem txValid {s t : State} (h : s.sameSeen t) : s.txValid = t.txValid := by
  rw [State.txValid, State.txValid, h.busy, h.rst]

theorem transfers {s t : State} (h : s.sameSeen t) : s.transfers = t.transfers := by
  rw [State.transfers, State.transfers, h.txValid, State.txReady, State.txReady, h.txReadyIn, h.cycle]

/-- The byte in flight is the same in both. -/
theorem memRead {s t : State} (h : s.sameSeen t) (hb : s.busy = true) : s.memRead s.txIdx = t.memRead t.txIdx := by
  rw [State.memRead, State.memRead, h.txIdx, h.frm hb]

theorem txData {s t : State} (h : s.sameSeen t) : s.txData = t.txData := by
  unfold State.txData
  rw [← h.txValid]
  split
  · exact h.memRead (Bool.and_eq_true_iff.1 ‹_›).1
  · rfl

theorem outputs {s t : State} (h : s.sameSeen t) (w : Word) : s.outputs w = t.outputs w := by
  simp only [State.outputs, State.busyO, State.errO, h.resetDone, h.txData, h.cmdReady w, h.rdata, h.txValid, h.busy,
    h.err]

/-- A reset cycle sets what the two states may differ in. -/
theorem resetCycle {s t : State} (h : s.sameSeen t) : s.resetCycle = t.resetCycle := by
  simp only [State.resetCycle, h.cmdIn, h.txReadyIn, h.rstIn, h.cycle, h.txOut, h.rdataOut]

theorem refl (s : State) : s.sameSeen s :=
  ⟨rfl, rfl, fun _ _ => rfl, rfl, fun _ => rfl, rfl, rfl, rfl, rfl, rfl, rfl, rfl, rfl, rfl, rfl, rfl, rfl⟩

end State.sameSeen

/-! ## The parts of a cycle of two states that look the same -/

/-- Two states that look the same, with both frame buffers in canonical form. -/
structure State.Alike (s t : State) : Prop where
  seen : s.sameSeen t
  wfLeft : Memory.wf s.frm = true
  wfRight : Memory.wf t.frm = true

/-- States alike stay alike under an update that keeps both frame buffers. -/
theorem State.Alike.of_frm {s t u v : State} (h : s.Alike t) (hs : u.sameSeen v) (hu : u.frm = s.frm)
    (hv : v.frm = t.frm) : u.Alike v :=
  ⟨hs, hu ▸ h.wfLeft, hv ▸ h.wfRight⟩

/-- Two outcomes that cannot be told apart: next states alike, or the same stop. -/
inductive Result.Alike : Result → Result → Prop where
  | next {s t : State} (h : s.Alike t) : Result.Alike (.next s) (.next t)
  | fault (e : Fault) : Result.Alike (.fault e) (.fault e)
  | refused (e : Refusal) : Result.Alike (.refused e) (.refused e)

theorem Result.Alike.andThen {r q : Result} {f g : State → Result} (h : Result.Alike r q)
    (hf : ∀ s t : State, s.Alike t → Result.Alike (f s) (g t)) : Result.Alike (andThen r f) (andThen q g) := by
  cases h with
  | next h => exact hf _ _ h
  | fault e => exact .fault e
  | refused e => exact .refused e

theorem execPack_alike {s t : State} (h : s.Alike t) : Result.Alike (execPack s) (execPack t) := by
  obtain ⟨hseen, hs, ht⟩ := h
  unfold execPack
  rw [← hseen.busy, ← hseen.sv]
  split
  · exact .next ⟨hseen, hs, ht⟩
  · split
    · exact .next (State.Alike.of_frm ⟨hseen, hs, ht⟩ (hseen.raise _) (s.raise_frm _) (t.raise_frm _))
    · exact .next ⟨hseen.startFrame hs ht (not_not.1 ‹_›), Memory.writeFrame_wf _ hs, Memory.writeFrame_wf _ ht⟩

theorem exec_alike (i : Instr) {s t : State} (h : s.Alike t) : Result.Alike (exec i s) (exec i t) := by
  have hseen := h.seen
  cases i with
  | nop => exact .next h
  | crcInit => exact .next (h.of_frm (hseen.writeCrc _) rfl rfl)
  | crcFeed b =>
    rw [exec_crcFeed, exec_crcFeed, ← hseen.crcAcc]
    exact .next (h.of_frm (hseen.writeCrc _) rfl rfl)
  | crcRead =>
    rw [exec_crcRead, exec_crcRead, ← hseen.crcAcc]
    exact .next (h.of_frm (hseen.writeRdata _) rfl rfl)
  | loadSample k v => exact .next (h.of_frm (hseen.writeSample k v) rfl rfl)
  | pack => exact execPack_alike h
  | statusRead =>
    have hread : (s.writeRdata s.status).sameSeen (t.writeRdata t.status) := hseen.status ▸ hseen.writeRdata s.status
    exact .next (h.of_frm hread rfl rfl)

theorem acceptWord_alike (w : Word) {s t : State} (h : s.Alike t) :
    Result.Alike (acceptWord w s) (acceptWord w t) := by
  unfold acceptWord
  split
  · refine (exec_alike _ h).andThen fun u v huv => .next (huv.of_frm (huv.seen.recordRead _) ?_ ?_)
    · exact recordRead_frm _ u
    · exact recordRead_frm _ v
  · exact .next (h.of_frm (h.seen.raise _) (s.raise_frm _) (t.raise_frm _))

theorem commandPart_alike {s t : State} (h : s.Alike t) : Result.Alike (commandPart s) (commandPart t) := by
  have hnext : ∀ u v : State, u.Alike v → Result.Alike (.next u.nextPresentation) (.next v.nextPresentation) :=
    fun u v huv => .next (huv.of_frm huv.seen.nextPresentation rfl rfl)
  unfold commandPart
  rw [← h.seen.presented]
  split
  · exact hnext s t h
  · rw [← h.seen.cmdReady]
    split
    · exact (acceptWord_alike _ h).andThen hnext
    · exact .next h

/-- The edges of two states alike, after command parts alike. -/
theorem edge_alike {s t u v : State} (h : s.Alike t) (hpost : u.Alike v) : Result.Alike (s.edge u) (t.edge v) := by
  have htick : ∀ x y : State, x.Alike y → Result.Alike (.next x.tick) (.next y.tick) :=
    fun x y hxy => .next (hxy.of_frm hxy.seen.tick rfl rfl)
  refine Result.Alike.andThen ?_ htick
  have hsame : (s.txValid && s.txReady) = (t.txValid && t.txReady) := h.seen.transfers
  unfold txPart
  rw [← hsame]
  split
  · have hb : s.busy = true := (State.transfers_eq_true_iff.1 ‹_›).1
    rw [← h.seen.memRead hb]
    split
    · rw [← h.seen.txIdx]
      exact .next (hpost.of_frm (hpost.seen.sendByte _ _) (u.sendByte_frm _ _) (v.sendByte_frm _ _))
    · exact .fault _
  · exact .next hpost

theorem step_alike {s t : State} (h : s.Alike t) : Result.Alike (step s) (step t) := by
  rw [step_eq, step_eq, ← h.seen.rst, ← h.seen.resetDone]
  split
  · rw [← h.seen.resetCycle]
    exact .next ⟨.refl _, State.reset_frm_wf, State.reset_frm_wf⟩
  · split
    · exact (commandPart_alike h).andThen fun _ _ => edge_alike h
    · exact .fault _

/-- Settles O42: the ports, and the parts of a cycle, one after the other. -/
theorem invalidSamplesAndIdleFrameAreNeverSeen : Obligations.InvalidSamplesAndIdleFrameAreNeverSeen := by
  intro s t hseen hs ht
  refine ⟨hseen.outputs, fun s' hstep => ?_⟩
  have halike := step_alike ⟨hseen, hs, ht⟩
  rw [hstep] at halike
  generalize step t = r at halike
  cases halike with
  | next h => exact ⟨_, rfl, h.seen, h.wfLeft, h.wfRight⟩

end Sys2Proof.Machine
end
